-- ==== Sys2Proof/Word.lean ====
section
/-! DEFINITION. The words the SC16A frame codec moves: bytes of the serial line, 16-bit operands and
table entries, 14-bit decoded positions (00_scope.md R10, R11). Every value is unsigned. -/

namespace Sys2Proof

/-- A transport byte: `BYTE_W` = 8 (R10). Bit 0 is the least significant bit (R11). -/
abbrev Byte := BitVec 8

/-- The `pos` operand (`POS_OP_W` = 16) and a position-table entry (`POS_ENTRY_W` = 16) (R10). -/
abbrev Word := BitVec 16

/-- A decoded position: `RPOS_W` = 14 (R10). -/
abbrev RPos := BitVec 14

/-- The result `(rch, rpos)` an FBRECV returns to the host (41_decode.md R112, R114). -/
structure FbResult where
  /-- The reported channel, 8 bits. -/
  rch : Byte
  /-- The reported position, 14 bits. -/
  rpos : RPos
  deriving DecidableEq, Repr

end Sys2Proof
end

