-- ==== Sys2Proof/Config.lean ====
section
/-! DEFINITION. What is fixed when the block is built (the two open parameters of 00_scope.md R10) and
the free values: what the spec leaves unspecified, as constants without a body. -/

namespace Sys2Proof

/-- `CHAN_RX_MASK`, open over `0x0F`, `0x1F`, `0x3F` (R10, R110; 92_eei_decisions.md D4). -/
inductive RxMask where
  | m0F
  | m1F
  | m3F
  deriving DecidableEq, Repr

/-- `POS_RESET`: every entry unspecified, or every entry 0 (R10, R24; D7). -/
inductive PosReset where
  | unspecified
  | zero
  deriving DecidableEq, Repr

/-- The parameters a model takes as arguments (R10); `NTAB` follows from the mask. -/
structure Params where
  rxMask : RxMask
  posReset : PosReset
  deriving DecidableEq, Repr

/-- The defaults of R10: `CHAN_RX_MASK` = `0x1F`, `POS_RESET` unspecified. -/
def Params.standard : Params := { rxMask := .m1F, posReset := .unspecified }

/-- Which primitive is in progress: the sequencer's `opk` (10_state.md R30). -/
inductive OpKind where
  | move
  | fbreq
  | fbrecv
  deriving DecidableEq, Repr, Inhabited

/-! ### Free values -/

/-- The unspecified content of table entry `i` after reset, one stable draw per entry
(R24; 93_implementation_defined.md U1; log entry 5). -/
opaque Config.posDraw : Nat → Word

/-- The unspecified `opk` after reset (R33; U4; log entry 6). -/
opaque Config.opkDraw : OpKind

/-- The unspecified `lch` after reset (R33; U4; log entry 6). -/
opaque Config.lchDraw : Byte

/-- The unspecified `lpos` after reset (R33; U4; log entry 6). -/
opaque Config.lposDraw : Word

/-- The unspecified `lspd` after reset (R33; U4; log entry 6). -/
opaque Config.lspdDraw : Byte

/-- The unspecified `rb0` after reset (R33; U4; log entry 6). -/
opaque Config.rb0Draw : Byte

/-- The unspecified `rb1` after reset (R33; U4; log entry 6). -/
opaque Config.rb1Draw : Byte

/-- What the environment answers to the `k`-th attempt to receive, where no script says it: a byte, or
none available (00_scope.md R8; U5; log entry 4). -/
opaque Config.rxOracle : Nat → Option Byte

/-- Whether the transport accepts the byte of the `k`-th attempt to send, where no script says it
(40_encode.md R101; U6; log entry 4). -/
opaque Config.txOracle : Nat → Bool

/-- An entry's content after reset: free, or 0 under `POS_RESET = zero` (R24). -/
def entryAtReset (p : Params) (i : Nat) : Word :=
  match p.posReset with
  | .unspecified => Config.posDraw i
  | .zero => 0

end Sys2Proof
end

