-- ==== Sys2Proof/Machine/Operands.lean ====
section
/-! DEFINITION. The fields of the three frame formats, both ways: the encoder's byte builders
(40_encode.md R90 to R94, R97), the decoder's formulas (41_decode.md R110 to R112), the
well-formedness of frames (30_encoding.md R68), and the table index of a channel (42_poller.md R137). -/

namespace Sys2Proof.Machine

/-! ### The receive mask and the table's size -/

/-- The byte `CHAN_RX_MASK` (R10). -/
def rxMaskByte : RxMask → Byte
  | .m0F => 0x0F#8
  | .m1F => 0x1F#8
  | .m3F => 0x3F#8

/-- `NTAB = CHAN_RX_MASK + 1` (R10, R21). -/
def ntab (m : RxMask) : Nat := (rxMaskByte m).toNat + 1

/-! ### Operand to wire -/

/-- `TagCh(ch) = 0x40 | (ch & 0x3F)` (R90). -/
def tagCh (ch : Byte) : Byte := 0x40#8 ||| (ch &&& 0x3F#8)

/-- `PosHi(pos) = (pos >> 6) & 0x3F` (R91). -/
def posHi (pos : Word) : Byte := ((pos >>> 6) &&& 0x3F#16).setWidth 8

/-- `PosLo(pos) = pos & 0x3F` (R92). -/
def posLo (pos : Word) : Byte := (pos &&& 0x3F#16).setWidth 8

/-- `SpdByte(spd) = spd & 0x3F` (R93). -/
def spdByte (spd : Byte) : Byte := spd &&& 0x3F#8

/-- `FBREQ_LEAD` = `0x40` = `'@'` (R10, R97). -/
def fbreqLead : Byte := 0x40#8

/-- `EncodeMove`, a frame of format `M4` (R94). -/
def encodeMove (ch : Byte) (pos : Word) (spd : Byte) : List Byte :=
  [tagCh ch, posHi pos, posLo pos, spdByte spd]

/-- `EncodeFbReq`, a frame of format `Q2` (R97). -/
def encodeFbReq (ch : Byte) : List Byte := [fbreqLead, tagCh ch]

/-! ### Wire to result -/

/-- `DecodeChannel(b0) = b0 & CHAN_RX_MASK` (R110). -/
def decodeChannel (m : RxMask) (b0 : Byte) : Byte := b0 &&& rxMaskByte m

/-- `DecodePosition(b1, b2) = (zext_14(b1) << 6) | zext_14(b2 & 0x3F)`; `b1` is not masked (R111). -/
def decodePosition (b1 b2 : Byte) : RPos := (b1.setWidth 14 <<< 6) ||| (b2 &&& 0x3F#8).setWidth 14

/-- `DecodeFeedback(b0, b1, b2)` (R112). -/
def decodeFeedback (m : RxMask) (b0 b1 b2 : Byte) : FbResult :=
  { rch := decodeChannel m b0, rpos := decodePosition b1 b2 }

/-- `zext_16(rpos)`, what FBRECV writes into the table (R114). -/
def entryOf (rpos : RPos) : Word := rpos.setWidth 16

/-- The table index of a channel, `ch & CHAN_RX_MASK`: MOVEWAIT's `idx` (R137), and the index at which
a response that echoes `TagCh(ch)` lands. -/
def tableIndex (m : RxMask) (ch : Byte) : Nat := (decodeChannel m ch).toNat

/-! ### Well-formed frames -/

/-- Bits 7:6 of a byte (R66). -/
def tagBits (b : Byte) : BitVec 2 := b.extractLsb' 6 2

/-- `01` in bits 7:6: a channel byte, or the request lead (R66). -/
def isChannelByte (b : Byte) : Bool := tagBits b == 0b01#2

/-- `00` in bits 7:6: a position or speed byte (R66). -/
def isSextetByte (b : Byte) : Bool := tagBits b == 0b00#2

/-- `WfM4` (R68). -/
def wfM4 (b0 b1 b2 b3 : Byte) : Bool :=
  isChannelByte b0 && isSextetByte b1 && isSextetByte b2 && isSextetByte b3

/-- `WfQ2` (R68). -/
def wfQ2 (b0 b1 : Byte) : Bool := b0 == fbreqLead && isChannelByte b1

/-- `WfF3` (R68). -/
def wfF3 (b0 b1 b2 : Byte) : Bool := isChannelByte b0 && isSextetByte b1 && isSextetByte b2

/-! ### What a receiver reads back (R102) -/

/-- The sextet in bits 5:0 of a byte: the field `c` or `s`, as an operand. -/
def sextetOf (b : Byte) : Byte := b &&& 0x3F#8

/-- The 12-bit position `(b1 << 6) | b2` of a well-formed frame, as an operand. -/
def positionOf (b1 b2 : Byte) : Word := (b1.setWidth 16 <<< 6) ||| b2.setWidth 16

/-! ### A frame as one integer (R67) -/

/-- The `n` bytes of a frame written as one integer, b0 in the most significant place (R67). -/
def bytesOfWord : Nat → Nat → List Byte
  | 0, _ => []
  | n + 1, w => BitVec.ofNat 8 (w >>> (8 * n)) :: bytesOfWord n w

end Sys2Proof.Machine
end

