-- ==== Sys2Proof/Syntax.lean ====
section
/-! DEFINITION. The block's primitive operations, one constructor per row of spec/opcode_table.json.
MOVEWAIT has no row (30_encoding.md R74): it is an item of the host's program, in Machine/State.lean. -/

namespace Sys2Proof

/-- The primitive operations with their operands (00_scope.md R9; operand widths R10). -/
inductive Instr where
  /-- `MOVE ch, pos, spd`: send the 4-byte move command (40_encode.md R95). -/
  | move (ch : Byte) (pos : Word) (spd : Byte)
  /-- `FBREQ ch`: send the 2-byte feedback request (R98). -/
  | fbreq (ch : Byte)
  /-- `FBRECV`: receive 3 bytes, decode them, write one table entry (41_decode.md R114). -/
  | fbrecv
  deriving DecidableEq, Repr

end Sys2Proof
end

