-- ==== Sys2Proof/Machine/State.lean ====
section
/-! DEFINITION. The state of the block (10_state.md), the host's program, the environment's two
directions of the serial line, and the records of what a run leaves to be observed. -/

namespace Sys2Proof.Machine

/-- An item of the host's program (00_scope.md R9; 10_state.md R25). -/
inductive HostOp where
  /-- A primitive operation to issue. -/
  | op (i : Instr)
  /-- The pseudo-operation `MOVEWAIT ch, pos, spd` (42_poller.md R130). -/
  | moveWait (ch : Byte) (pos : Word) (spd : Byte)
  /-- The head of MOVEWAIT's loop, `while POS[idx] != pos do FBREQ ch; FBRECV end` (R130): the position a
  MOVEWAIT has reached in its expansion (R135; log entry 10). -/
  | poll (ch : Byte) (pos : Word)
  deriving DecidableEq, Repr

/-- What the environment answers once its listed answers have run out (log entry 3). -/
inductive FeedTail (α : Type) where
  /-- The answers repeat for ever; with the empty list there is none ever again. -/
  | again (answers : List α)
  /-- Answers under no law: the free values of Config, read by a counter (log entry 4). -/
  | oracle (k : Nat)
  deriving DecidableEq, Repr

/-- The environment's answers to successive attempts of the codec, first to last (00_scope.md R8). -/
structure Feed (α : Type) where
  now : List α
  tail : FeedTail α
  deriving DecidableEq, Repr

/-- The machine: the block, the host and the environment. -/
structure State where
  /-- The build-time parameters (R10); no operation writes them (R27; log entry 7). -/
  params : Params
  /-- The position table `POS[0..NTAB-1]` (R21). -/
  pos : List Word
  /-- An operation is in progress (R30). -/
  busy : Bool
  /-- Which primitive (R30). -/
  opk : OpKind
  /-- The latched `ch` (R30). -/
  lch : Byte
  /-- The latched `pos` (R30). -/
  lpos : Word
  /-- The latched `spd` (R30). -/
  lspd : Byte
  /-- The index of the next byte to send, 0..3 (R30). -/
  txi : Fin 4
  /-- The index of the next byte to receive, 0..2 (R30). -/
  rxi : Fin 3
  /-- The first received byte, held until the third arrives (R30). -/
  rb0 : Byte
  /-- The second received byte, held until the third arrives (R30). -/
  rb1 : Byte
  /-- The TX history: every byte sent, in order; a record no rule reads (R13, R32). -/
  txHist : List Byte
  /-- The results returned by each FBRECV, in order; a record no rule reads (R13; log entry 9). -/
  results : List FbResult
  /-- The rest of the host's program (R25). -/
  program : List HostOp
  /-- The transport's answers to attempts to send: `true` accepts the byte (R11, R101). -/
  tx : Feed Bool
  /-- The environment's answers to attempts to receive: a byte, or none available (R11, R118). -/
  rx : Feed (Option Byte)
  deriving DecidableEq, Repr

/-- Why a step stops with a fault. The block has no fault of its own (60_exceptions.md R150): these are
the model's checks in states that no run reaches (log entry 15). -/
inductive Fault where
  /-- Raised by FBRECV's table write and MOVEWAIT's test where the table lacks the index; R21 sizes the
  table so that this cannot happen. Safe: the model stops. -/
  | noSuchEntry
  /-- Raised by a send step whose `txi` lies beyond its frame. Safe: the model stops. -/
  | noSuchByte
  deriving DecidableEq, Repr

/-- Why an operation is refused. -/
inductive Refusal where
  /-- Raised by exec's arm of an instruction without a meaning (none is left). Safe. -/
  | notModelled (mnemonic : String)
  /-- Raised by every primitive asked to run while another one is in progress: the host has no such
  move (93_implementation_defined.md U12; log entry 8). Safe: no step of the machine does it. -/
  | issueWhileBusy
  deriving DecidableEq, Repr

/-- The machine right after reset, built with the parameters `p` (10_state.md R33;
70_reset_and_hazards.md R170). What R33 calls unspecified is a free value. -/
def State.resetWith (p : Params) : State where
  params := p
  pos := (List.range (ntab p.rxMask)).map (entryAtReset p)
  busy := false
  opk := Config.opkDraw
  lch := Config.lchDraw
  lpos := Config.lposDraw
  lspd := Config.lspdDraw
  txi := 0
  rxi := 0
  rb0 := Config.rb0Draw
  rb1 := Config.rb1Draw
  txHist := []
  results := []
  program := []
  tx := { now := [], tail := .oracle 0 }
  rx := { now := [], tail := .oracle 0 }

/-- The machine right after reset, with the default parameters (R10, R33). -/
def State.reset : State := State.resetWith Params.standard

end Sys2Proof.Machine
end

