-- ==== Sys2Proof/Machine/Ops.lean ====
section
/-! DEFINITION. The shared operations: reading and writing the position table, the environment's
answers, issuing an operation, and one byte step of a send and of a receive. No exception entry or
return is among them: the block takes none (60_exceptions.md R150, R155, R156). -/

namespace Sys2Proof.Machine

/-- The outcome of a step of this machine. -/
abbrev Result := Host.Outcome State Fault Refusal

/-! ### The position table -/

/-- `POS[i]` (00_scope.md R11). -/
def readEntry (s : State) (i : Nat) : Option Word := s.pos[i]?

/-- `POS[i] <- v` (00_scope.md R11); `none` where the table has no such entry. -/
def writeEntry (s : State) (i : Nat) (v : Word) : Option State :=
  if i < s.pos.length then some { s with pos := s.pos.set i v } else none

/-! ### The environment -/

/-- The environment's answer to one attempt, and its answers to the attempts after it (log entry 3).
`none`: no answer, now or ever. -/
def Feed.next {α : Type} (free : Nat → α) (f : Feed α) : Option α × Feed α :=
  match f.now, f.tail with
  | a :: rest, t => (some a, { now := rest, tail := t })
  | [], .again [] => (none, f)
  | [], .again (a :: rest) => (some a, { now := rest, tail := .again (a :: rest) })
  | [], .oracle k => (some (free k), { now := [], tail := .oracle (k + 1) })

/-- The environment after it has answered `k` more attempts. -/
def Feed.after {α : Type} (free : Nat → α) : Nat → Feed α → Feed α
  | 0, f => f
  | k + 1, f => Feed.after free k (f.next free).2

/-- Whether the transport accepts a byte at this attempt (R101). -/
def txOffer (s : State) : Bool × Feed Bool :=
  ((s.tx.next Config.txOracle).1.getD false, (s.tx.next Config.txOracle).2)

/-- The byte available at this attempt, if any (R118). -/
def rxOffer (s : State) : Option Byte × Feed (Option Byte) :=
  ((s.rx.next Config.rxOracle).1.join, (s.rx.next Config.rxOracle).2)

/-! ### Issuing (D1, D12): the operands an operation has are latched, its byte index starts at 0 -/

/-- The block right after `MOVE ch, pos, spd` is issued (10_state.md R30). -/
def State.issueMove (s : State) (ch : Byte) (pos : Word) (spd : Byte) : State :=
  { s with busy := true, opk := .move, lch := ch, lpos := pos, lspd := spd, txi := 0 }

/-- The block right after `FBREQ ch` is issued (R30); it has no `pos` and no `spd` to latch
(log entry 13). -/
def State.issueFbreq (s : State) (ch : Byte) : State :=
  { s with busy := true, opk := .fbreq, lch := ch, txi := 0 }

/-- The block right after `FBRECV` is issued: it starts with `rxi` = 0 (R31). -/
def State.issueFbrecv (s : State) : State :=
  { s with busy := true, opk := .fbrecv, rxi := 0 }

/-- The operation in progress, from `opk` and the latches (R30). -/
def State.inProgress (s : State) : Instr :=
  match s.opk with
  | .move => .move s.lch s.lpos s.lspd
  | .fbreq => .fbreq s.lch
  | .fbrecv => .fbrecv

/-! ### One byte step of a send (40_encode.md R101) -/

/-- The transport did not accept: the operation waits (log entry 2). -/
def State.sendWaited (s : State) (tx' : Feed Bool) : State := { s with tx := tx' }

/-- `b` was sent and more of the frame is to come. -/
def State.sentByte (s : State) (b : Byte) (tx' : Feed Bool) : State :=
  { s with txHist := s.txHist ++ [b], txi := s.txi + 1, tx := tx' }

/-- `b` was sent and was the frame's last byte: the operation completes. -/
def State.sentLast (s : State) (b : Byte) (tx' : Feed Bool) : State :=
  { s with txHist := s.txHist ++ [b], txi := 0, busy := false, tx := tx' }

/-- One step of sending `frame`: `Send(frame[txi])` if the transport accepts a byte, else wait. -/
def sendStep (frame : List Byte) (s : State) : Result :=
  match frame[s.txi.val]? with
  | none => .fault .noSuchByte
  | some b =>
    match txOffer s with
    | (false, tx') => .next (s.sendWaited tx')
    | (true, tx') =>
      if s.txi.val + 1 < frame.length then .next (s.sentByte b tx') else .next (s.sentLast b tx')

/-! ### One byte step of a receive (41_decode.md R118) -/

/-- No byte is available: the operation waits (log entry 2). -/
def State.recvWaited (s : State) (rx' : Feed (Option Byte)) : State := { s with rx := rx' }

/-- The first byte was taken. -/
def State.tookFirst (s : State) (b : Byte) (rx' : Feed (Option Byte)) : State :=
  { s with rb0 := b, rxi := 1, rx := rx' }

/-- The second byte was taken. -/
def State.tookSecond (s : State) (b : Byte) (rx' : Feed (Option Byte)) : State :=
  { s with rb1 := b, rxi := 2, rx := rx' }

/-- The third byte was taken and the table written: the operation completes and returns `r`. -/
def State.tookThird (s : State) (r : FbResult) (rx' : Feed (Option Byte)) : State :=
  { s with results := s.results ++ [r], rxi := 0, busy := false, rx := rx' }

/-- The third byte `b` completes the frame: decode, write `POS[rch]`, return (R114, R118). -/
def finishFeedback (b : Byte) (rx' : Feed (Option Byte)) (s : State) : Result :=
  match writeEntry s (decodeFeedback s.params.rxMask s.rb0 s.rb1 b).rch.toNat
      (entryOf (decodeFeedback s.params.rxMask s.rb0 s.rb1 b).rpos) with
  | none => .fault .noSuchEntry
  | some s' => .next (s'.tookThird (decodeFeedback s.params.rxMask s.rb0 s.rb1 b) rx')

/-- One step of receiving a feedback frame. -/
def recvStep (s : State) : Result :=
  match rxOffer s with
  | (none, rx') => .next (s.recvWaited rx')
  | (some b, rx') =>
    match s.rxi with
    | 0 => .next (s.tookFirst b rx')
    | 1 => .next (s.tookSecond b rx')
    | 2 => finishFeedback b rx' s

/-- A primitive `i` at `s`: issued if the block is idle, advanced by one byte step if it is the
operation in progress, refused if another one is (R7, R30; log entries 1 and 8). -/
def runPrimitive (i : Instr) (issued : State) (advance : State → Result) (s : State) : Result :=
  if s.busy then
    if s.inProgress = i then advance s else .refused .issueWhileBusy
  else .next issued

/-- The host's program replaced. -/
def State.withProgram (s : State) (p : List HostOp) : State := { s with program := p }

end Sys2Proof.Machine
end

