-- ==== Sys2Proof/Machine/Command.lean ====
section
/-! DEFINITION. The command encoder: MOVE and FBREQ (40_encode.md). One call is one event: the issue,
or one byte step from the latched operands. -/

namespace Sys2Proof.Machine

/-- `MOVE ch, pos, spd`: the four bytes of `EncodeMove` of the latched operands (R95, R101). -/
def execMove (ch : Byte) (pos : Word) (spd : Byte) (s : State) : Result :=
  runPrimitive (.move ch pos spd) (s.issueMove ch pos spd)
    (sendStep (encodeMove s.lch s.lpos s.lspd)) s

/-- `FBREQ ch`: the two bytes of `EncodeFbReq` of the latched operand (R98, R101). -/
def execFbreq (ch : Byte) (s : State) : Result :=
  runPrimitive (.fbreq ch) (s.issueFbreq ch) (sendStep (encodeFbReq s.lch)) s

end Sys2Proof.Machine
end

