-- ==== Sys2Proof/Machine/Feedback.lean ====
section
/-! DEFINITION. The feedback response parser: FBRECV (41_decode.md). -/

namespace Sys2Proof.Machine

/-- `FBRECV`: three bytes, decoded; one table entry written at the third; the result returned
(R114, R118). One call is one event: the issue, or one byte step. -/
def execFbrecv (s : State) : Result := runPrimitive .fbrecv s.issueFbrecv recvStep s

end Sys2Proof.Machine
end

