-- ==== Sys2Proof/Machine/Dispatch.lean ====
section
/-! DEFINITION. One arm per primitive operation. -/

namespace Sys2Proof.Machine

def exec (i : Instr) (s : State) : Host.Outcome State Fault Refusal :=
  match i with
  | .move ch pos spd => Sys2Proof.Machine.execMove ch pos spd s
  | .fbreq ch => Sys2Proof.Machine.execFbreq ch s
  | .fbrecv => Sys2Proof.Machine.execFbrecv s

end Sys2Proof.Machine
end

