-- ==== Sys2Proof/WellFormed.lean ====
section
/-! DEFINITION. Which operations the wire carries without loss: each operand fits its field
(30_encoding.md R64). It is a fact about encodings, never a condition for running: the block accepts
every operand value and truncates silently (40_encode.md R103; log entry 16). -/

namespace Sys2Proof

/-- The channel fits the 6-bit field `c` (R64). -/
def chFits (ch : Byte) : Bool := decide (ch.toNat < 64)

/-- The position fits the 12-bit field, two sextets (R64). -/
def posFits (pos : Word) : Bool := decide (pos.toNat < 4096)

/-- The speed fits the 6-bit field `s` (R64). -/
def spdFits (spd : Byte) : Bool := decide (spd.toNat < 64)

/-- Every operand fits its wire field. -/
def Instr.wellFormed : Instr → Bool
  | .move ch pos spd => chFits ch && posFits pos && spdFits spd
  | .fbreq ch => chFits ch
  | .fbrecv => true

end Sys2Proof
end

