-- ==== Sys2Proof/Decode.lean ====
section
/-! DEFINITION. From a frame's bytes to the operation it stands for, and back (30_encoding.md). The
block itself decodes no command frame (40_encode.md R102); what is read here is what a receiver can
read back, and FBRECV's own format, which accepts any three bytes (R69). -/

namespace Sys2Proof

open Sys2Proof.Machine

/-- Why bytes are no frame. -/
inductive DecodeError where
  /-- No format has this length (R60, R71). -/
  | badLength
  /-- Four bytes that are not `WfM4` (R68). -/
  | notM4
  /-- Two bytes that are not `WfQ2` (R68). -/
  | notQ2
  deriving DecidableEq, Repr

/-- The operation a whole frame stands for; a format is known by its length (R60, R71). Three bytes
are FBRECV's whatever they hold (R69). -/
def decode : List Byte → Except DecodeError Instr
  | [b0, b1, b2, b3] =>
    if wfM4 b0 b1 b2 b3 then .ok (.move (sextetOf b0) (positionOf b1 b2) (sextetOf b3))
    else .error .notM4
  | [b0, b1] => if wfQ2 b0 b1 then .ok (.fbreq (sextetOf b1)) else .error .notQ2
  | [_, _, _] => .ok .fbrecv
  | _ => .error .badLength

/-- The frame of an operation: what MOVE and FBREQ put on the line (R94, R97). FBRECV sends nothing
and takes any three bytes; its row's `match` value stands for it (log entry 11). -/
def encode : Instr → List Byte
  | .move ch pos spd => encodeMove ch pos spd
  | .fbreq ch => encodeFbReq ch
  | .fbrecv => [0x40#8, 0x00#8, 0x00#8]

/-- The operation with each operand cut to its wire field (R64, R102). -/
def Instr.truncate : Instr → Instr
  | .move ch pos spd => .move (ch &&& 0x3F#8) (pos &&& 0x0FFF#16) (spd &&& 0x3F#8)
  | .fbreq ch => .fbreq (ch &&& 0x3F#8)
  | .fbrecv => .fbrecv

/-- The first command frame of a TX stream and the bytes after it: the second byte's tag tells a
request from a move command (R72). -/
def nextCommand : List Byte → Except DecodeError (Instr × List Byte)
  | b0 :: b1 :: rest =>
    if isChannelByte b1 then (decode [b0, b1]).map (·, rest)
    else
      match rest with
      | b2 :: b3 :: rest' => (decode [b0, b1, b2, b3]).map (·, rest')
      | _ => .error .badLength
  | _ => .error .badLength

/-- `parseTx` with a bound on the number of frames. -/
def parseTxUpTo : Nat → List Byte → Except DecodeError (List Instr)
  | _, [] => .ok []
  | 0, _ :: _ => .error .badLength
  | n + 1, bs =>
    match nextCommand bs with
    | .error e => .error e
    | .ok (i, rest) => (parseTxUpTo n rest).map (i :: ·)

/-- A whole TX stream as the commands it is made of (R72). -/
def parseTx (bs : List Byte) : Except DecodeError (List Instr) := parseTxUpTo bs.length bs

/-- The operation the decoder reads from a frame written as one integer of `nbits` bits, b0 most
significant, as spec/opcode_table.json writes it (R67). -/
def decodeTableWord (nbits w : Nat) : Option Instr := (decode (bytesOfWord (nbits / 8) w)).toOption

end Sys2Proof
end

