-- ==== Sys2Proof/Machine/Flags.lean ====
section
/-! DEFINITION. The block has no flag and no condition code (10_state.md R26). What stands in their
place is one comparison, evaluated by MOVEWAIT and stored nowhere. -/

namespace Sys2Proof.Machine

/-- Arrival: the whole 16-bit entry equals the whole 16-bit target, no mask and no tolerance band
(42_poller.md R131). -/
def arrived (entry target : Word) : Bool := entry == target

end Sys2Proof.Machine
end

