-- ==== Sys2Proof/Machine/Poller.lean ====
section
/-! DEFINITION. The host's program and the position poller: MOVEWAIT's expansion and its loop test
(42_poller.md), what the machine does next (10_state.md R25), and how a frame's word is placed as the
next operation. -/

namespace Sys2Proof.Machine

/-- MOVEWAIT's expansion: the MOVE, then the loop (R130). -/
def expandMoveWait (ch : Byte) (pos : Word) (spd : Byte) (rest : List HostOp) : List HostOp :=
  .op (.move ch pos spd) :: .poll ch pos :: rest

/-- One round trip and the loop again (R130). -/
def expandRoundTrip (ch : Byte) (pos : Word) (rest : List HostOp) : List HostOp :=
  .op (.fbreq ch) :: .op .fbrecv :: .poll ch pos :: rest

/-- MOVEWAIT's exit test, made before every round trip (R131, R132): leave the loop, or go round. -/
def pollTest (ch : Byte) (pos : Word) (rest : List HostOp) (s : State) : Result :=
  match readEntry s (tableIndex s.params.rxMask ch) with
  | none => .fault .noSuchEntry
  | some v =>
    if arrived v pos then .next (s.withProgram rest)
    else .next (s.withProgram (expandRoundTrip ch pos rest))

/-- What the machine does next: run a primitive, or something that no primitive does. -/
inductive Fetched where
  | run (i : Instr) (s : State)
  | other (o : Result)

/-- The operation in progress goes on; an idle block takes the program's next item; with no item left
it waits for the host (R7, R25, R172; log entries 2, 10, 14). -/
def fetch (s : State) : Fetched :=
  if s.busy then .run s.inProgress s
  else
    match s.program with
    | [] => .other (.next s)
    | .op i :: rest => .run i (s.withProgram rest)
    | .moveWait ch pos spd :: rest => .other (.next (s.withProgram (expandMoveWait ch pos spd rest)))
    | .poll ch pos :: rest => .other (pollTest ch pos rest s)

/-- The block idle, the state the host issues from (R30, R33). -/
def State.idled (s : State) : State := { s with busy := false, txi := 0, rxi := 0 }

/-- Bytes the environment will supply before anything else it supplies. -/
def State.supplied (s : State) (bs : List Byte) : State :=
  { s with rx := { s.rx with now := bs.map some ++ s.rx.now } }

/-- `i` placed as the host's next operation; FBRECV's frame is an incoming one (R63), so its bytes go
to the front of the RX stream (log entry 11). -/
def placeOperation (i : Instr) (frame : List Byte) (s : State) : State :=
  match i with
  | .move ch pos spd => s.idled.withProgram (.op (.move ch pos spd) :: s.program)
  | .fbreq ch => s.idled.withProgram (.op (.fbreq ch) :: s.program)
  | .fbrecv => (s.idled.supplied frame).withProgram (.op .fbrecv :: s.program)

/-- The frame `w` of `nbits` bits placed so that the next step issues its operation. -/
def placeWord (s : State) (nbits w : Nat) : State :=
  match decodeTableWord nbits w with
  | none => s
  | some i => placeOperation i (bytesOfWord (nbits / 8) w) s

end Sys2Proof.Machine
end

