-- ==== Sys2Proof/Machine/Step.lean ====
section
/-! DEFINITION. One step of the machine (00_scope.md R7). -/

namespace Sys2Proof.Machine

/-- One event: the issue of an operation, one byte step of the operation in progress, or one step of the
poller (log entry 1). -/
def step (s : State) : Host.Outcome State Fault Refusal :=
  match fetch s with
  | .run i s' => exec i s'
  | .other o => o

/-- The state in which the next step issues the operation whose frame is `w` (log entries 11 and 14). -/
def State.withFetchWord (s : State) (nbits w : Nat) : State := placeWord s nbits w

end Sys2Proof.Machine
end

