-- ==== Sys2Proof/Safety.lean ====
section
/-! DEFINITION. What is observed of a run (00_scope.md R13), its outcomes (60_exceptions.md R157), the
invariant of the reachable states, and the premises about the environment that claims name
(42_poller.md R140). -/

namespace Sys2Proof.Machine

/-! ### Runs -/

/-- `k` steps of the machine. -/
def runSteps (k : Nat) (s : State) : Result := Host.Core.run Sys2Proof.core k s

/-- `k` events of one operation: exec, repeated. -/
def execEvents (i : Instr) : Nat → State → Result
  | 0, s => .next s
  | k + 1, s =>
    match exec i s with
    | .next s' => execEvents i k s'
    | .fault r => .fault r
    | .refused r => .refused r

/-! ### The invariant -/

/-- The byte indices the sequencer may hold (R30, R33): idle, both are 0; while sending, `txi` lies in
the frame and `rxi` is 0; while receiving, `txi` is 0. -/
def State.indicesOk (s : State) : Bool :=
  if s.busy then
    match s.opk with
    | .move => s.rxi == 0
    | .fbreq => decide (s.txi.val < 2) && s.rxi == 0
    | .fbrecv => s.txi == 0
  else s.txi == 0 && s.rxi == 0

/-- The table has `NTAB` entries (R21) and the byte indices are in range (R30). -/
def State.wf (s : State) : Bool :=
  s.pos.length == ntab s.params.rxMask && s.indicesOk

/-! ### Outcomes of a run

They are properties of the run to come, whatever form the environment's answers have: listed, repeating or
free (log entry 18). -/

/-- A run from `s` reaches a state of which `P` holds. -/
def Reaches (s : State) (P : State → Prop) : Prop := ∃ k t, runSteps k s = .next t ∧ P t

/-- None of the answers the feed is still to give serves the attempt it is given to. -/
def Feed.neverServes {α : Type} (free : Nat → α) (serves : α → Bool) (f : Feed α) : Prop :=
  ∀ k a, ((f.after free k).next free).1 = some a → serves a = false

/-- Every operation of the host's program has finished (R157 (a)). -/
def State.finished (s : State) : Bool := !s.busy && s.program.isEmpty

/-- Stuck in `Send`: a MOVE or FBREQ is in progress and the transport never accepts a byte again
(R157 (b)). -/
def State.stuckInSend (s : State) : Prop :=
  s.busy = true ∧ s.opk ≠ .fbrecv ∧ s.tx.neverServes Config.txOracle id

/-- Stuck in `Recv`: an FBRECV is in progress and waits for a byte that never comes (R157 (c)). -/
def State.stuckInRecv (s : State) : Prop :=
  s.busy = true ∧ s.opk = .fbrecv ∧ s.rx.neverServes Config.rxOracle Option.isSome

/-- The loop of a MOVEWAIT stands before its exit test, and the test does not hold (42_poller.md R131);
`rest` is what the host's program goes on with after it. -/
def State.failsTest (s : State) (ch : Byte) (pos : Word) (rest : List HostOp) : Prop :=
  s.busy = false ∧ s.program = .poll ch pos :: rest ∧
    readEntry s (tableIndex s.params.rxMask ch) ≠ some pos

/-- Hangs: the exit test of one MOVEWAIT fails again and again without end; a round trip, and so an
answer of the board, stands between any two of the tests (R157 (d); 42_poller.md R133). -/
def State.hangs (s : State) : Prop :=
  ∃ ch pos rest, ∀ n, ∃ k t, n ≤ k ∧ runSteps k s = .next t ∧ t.failsTest ch pos rest

/-- The four outcomes of a run (R157). -/
inductive RunOutcome where
  | completes
  | stuckInSend
  | stuckInRecv
  | hangs
  deriving DecidableEq, Repr

/-- The run from `s` comes to the outcome (R157). -/
def State.comesTo (s : State) : RunOutcome → Prop
  | .completes => Reaches s (·.finished = true)
  | .stuckInSend => Reaches s State.stuckInSend
  | .stuckInRecv => Reaches s State.stuckInRecv
  | .hangs => s.hangs

/-- What a run leaves to be observed at a state (R13): (a) the TX history, (b) the table, (c) the results,
and (d) whether the host's program has finished, and if not what its run comes to. -/
structure Observation where
  txHist : List Byte
  pos : List Word
  results : List FbResult
  finished : Bool
  comesTo : RunOutcome → Prop

/-- The observation of a state (R13). -/
def State.observe (s : State) : Observation :=
  { txHist := s.txHist, pos := s.pos, results := s.results, finished := s.finished,
    comesTo := s.comesTo }

/-! ### The poller's conceptual states (R135) -/

/-- The document's per-channel states, positions in MOVEWAIT's sequence (R135). -/
inductive PollerPhase where
  | moving
  | polling
  | arrived
  deriving DecidableEq, Repr

/-- The position in MOVEWAIT's sequence a state stands at, if it is one of the three (R135). DESIGN CHOICE
(log entry 19): R135 gives no step between the exit test and FBREQ, where the model has one; the state before
the test step is Moving or Arrived by what the test will find, and the state after a failed test, before
FBREQ is issued, is Polling already. -/
def State.pollerPhase (s : State) : Option PollerPhase :=
  if s.busy then
    match s.opk, s.program with
    | .fbreq, .op .fbrecv :: .poll _ _ :: _ => some .polling
    | .fbrecv, .poll _ _ :: _ => some .polling
    | _, _ => none
  else
    match s.program with
    | .poll ch pos :: _ =>
      match readEntry s (tableIndex s.params.rxMask ch) with
      | some v => some (if arrived v pos then .arrived else .moving)
      | none => none
    | .op (.fbreq _) :: .op .fbrecv :: .poll _ _ :: _ => some .polling
    | .op .fbrecv :: .poll _ _ :: _ => some .polling
    | _ => none

/-! ### Premises about the environment -/

/-- The transport's coming answers `slots` accept exactly `n` bytes, the last of them at the last
attempt: any finite waiting in between is allowed (R101). -/
def Accepts (n : Nat) (slots : List Bool) : Prop :=
  slots.count true = n ∧ slots.getLast? = some true

/-- The environment's coming answers `slots` supply exactly the bytes `bs`, in order, the last of them at
the last attempt: any finite waiting in between is allowed (R118). -/
def Supplies (bs : List Byte) (slots : List (Option Byte)) : Prop :=
  slots.reduceOption = bs ∧ slots.getLast? = bs.getLast?.map some

/-- The transport accepts every byte (R140 (e), at once). -/
def Feed.alwaysAccepts (f : Feed Bool) : Prop :=
  f.now.all id = true ∧ ∃ n, f.tail = .again (List.replicate (n + 1) true)

/-- After whatever number of attempts, some later answer serves: with `id` over the transport's answers, the
line accepts every byte in the end (R140 (e)). -/
def Feed.servesForever {α : Type} (free : Nat → α) (serves : α → Bool) (f : Feed α) : Prop :=
  ∀ k, ¬ (f.after free k).neverServes free serves

/-- A feedback response as its three bytes. -/
abbrev Frame3 := Byte × Byte × Byte

/-- The three bytes in order of arrival. -/
def Frame3.bytes (f : Frame3) : List Byte := [f.1, f.2.1, f.2.2]

/-- What the decoder makes of a response (R112). -/
def Frame3.decoded (m : RxMask) (f : Frame3) : FbResult := decodeFeedback m f.1 f.2.1 f.2.2

/-- The response reports the channel index `idx` (R140 (c)). -/
def Frame3.reports (m : RxMask) (idx : Nat) (f : Frame3) : Prop := (f.decoded m).rch.toNat = idx

/-- The position a response writes into the table (R114). -/
def Frame3.entry (m : RxMask) (f : Frame3) : Word := entryOf (f.decoded m).rpos

end Sys2Proof.Machine
end

