-- ==== Sys2Proof/Certificates/Slice0/Obligations.lean ====
section
/-! DEFINITION. The statements for the provers, from the spec's numbered rules. -/

open Sys2Proof Sys2Proof.Machine

/-! ### Frames and fields -/

/-- Command frames written out from the format tables of 30_encoding.md (R61, R62; the vectors of
95_test_vectors.md 2.2, 2.3, 2.7) decode to their operations, and malformed ones to none. That three bytes,
of format F3 (R63) or not, read as FBRECV is the model's choice (log entry 11). -/
def Obligations.ReferenceFramesDecode : Prop :=
  decodeTableWord 32 0x4514141C = some (.move 5 1300 28) ∧
  decodeTableWord 32 0x50163700 = some (.move 16 1463 0) ∧
  decodeTableWord 32 0x4554141C = none ∧
  decodeTableWord 16 0x4045 = some (.fbreq 5) ∧
  decodeTableWord 16 0x4145 = none ∧
  decodeTableWord 24 0x410514 = some .fbrecv ∧
  decodeTableWord 24 0xFFFFFF = some .fbrecv

/-- R90 to R93: each byte builder, by its formula and as bits under the tag; where the channel byte equals
the document's unmasked formula and where it does not. -/
def Obligations.ByteBuildersAreBitExact : Prop :=
  (∀ ch : Byte, tagCh ch = 0x40#8 ||| (ch &&& 0x3F#8) ∧
    tagCh ch = 0b01#2 ++ ch.extractLsb' 0 6 ∧
    (ch.toNat < 128 → tagCh ch = ch ||| 0x40#8) ∧
    (128 ≤ ch.toNat → tagCh ch ≠ ch ||| 0x40#8)) ∧
  (∀ pos : Word, posHi pos = ((pos >>> 6) &&& 0x3F#16).setWidth 8 ∧
    posHi pos = 0b00#2 ++ pos.extractLsb' 6 6) ∧
  (∀ pos : Word, posLo pos = (pos &&& 0x3F#16).setWidth 8 ∧
    posLo pos = 0b00#2 ++ pos.extractLsb' 0 6) ∧
  (∀ spd : Byte, spdByte spd = spd &&& 0x3F#8 ∧
    spdByte spd = 0b00#2 ++ spd.extractLsb' 0 6)

/-- R61, R62: the frames MOVE and FBREQ send, byte by byte and bit by bit. -/
def Obligations.CommandFramesHaveTheirFormat : Prop :=
  (∀ (ch : Byte) (pos : Word) (spd : Byte), encodeMove ch pos spd =
    [0b01#2 ++ ch.extractLsb' 0 6, 0b00#2 ++ pos.extractLsb' 6 6,
     0b00#2 ++ pos.extractLsb' 0 6, 0b00#2 ++ spd.extractLsb' 0 6]) ∧
  (∀ ch : Byte, encodeFbReq ch = [0x40#8, 0b01#2 ++ ch.extractLsb' 0 6])

/-- R103: the encoder cannot produce a malformed frame, and no operand value is refused by an idle block. -/
def Obligations.EncoderCannotFail : Prop :=
  (∀ (ch : Byte) (pos : Word) (spd : Byte),
    (∃ b0 b1 b2 b3, encodeMove ch pos spd = [b0, b1, b2, b3] ∧ wfM4 b0 b1 b2 b3 = true) ∧
    (∃ b0 b1, encodeFbReq ch = [b0, b1] ∧ wfQ2 b0 b1 = true)) ∧
  (∀ (s : State) (ch : Byte) (pos : Word) (spd : Byte), s.busy = false →
    (∃ t, exec (.move ch pos spd) s = .next t) ∧ (∃ t, exec (.fbreq ch) s = .next t))

/-- R102: the fields of a well-formed command frame, and that a receiver reads back every operand cut to its
field, for every operand value. -/
def Obligations.CommandFramesReadBack : Prop :=
  (∀ b0 b1 b2 b3 : Byte, wfM4 b0 b1 b2 b3 = true → decode [b0, b1, b2, b3] =
    .ok (.move (b0 &&& 0x3F#8) ((b1.setWidth 16 <<< 6) ||| b2.setWidth 16) b3)) ∧
  (∀ b1 : Byte, wfQ2 0x40#8 b1 = true → decode [0x40#8, b1] = .ok (.fbreq (b1 &&& 0x3F#8))) ∧
  (∀ (ch : Byte) (pos : Word) (spd : Byte), decode (encode (.move ch pos spd)) =
    .ok (.move (ch &&& 0x3F#8) (pos &&& 0x0FFF#16) (spd &&& 0x3F#8))) ∧
  (∀ ch : Byte, decode (encode (.fbreq ch)) = .ok (.fbreq (ch &&& 0x3F#8)))

/-- Decode and encode agree: every well-formed operation is its frame's reading, and a frame read as a
command is the frame its operation sends. FBRECV's frame in `encode` is the model's choice (log entry 11). -/
def Obligations.DecodeEncodeAgree : Prop :=
  (∀ i : Instr, i.wellFormed = true → decode (encode i) = .ok i) ∧
  (∀ (bs : List Byte) (i : Instr), decode bs = .ok i → i ≠ .fbrecv →
    encode i = bs ∧ i.wellFormed = true)

/-- R68, R69, R75: as integers, four bytes are read exactly where the M4 mask and match hold, two
exactly where the Q2 mask and match hold, three always. -/
def Obligations.TableMasksDecide : Prop :=
  (∀ w : BitVec 32, (decodeTableWord 32 w.toNat).isSome = true ↔
    w &&& 0xC0C0C0C0#32 = 0x40000000#32) ∧
  (∀ w : BitVec 16, (decodeTableWord 16 w.toNat).isSome = true ↔ w &&& 0xFFC0#16 = 0x4040#16) ∧
  (∀ w : BitVec 24, decodeTableWord 24 w.toNat = some .fbrecv)

/-- R72: a TX stream made only of M4 and Q2 frames reads back as the commands it was made of. -/
def Obligations.TxStreamParses : Prop :=
  ∀ is : List Instr, (∀ i ∈ is, i ≠ .fbrecv) →
    parseTx (is.flatMap encode) = .ok (is.map Instr.truncate)

/-- R110, R111, R112: the decoder's two formulas, and the bits of the position. -/
def Obligations.DecodeFeedbackFormulas : Prop :=
  ∀ (m : RxMask) (b0 b1 b2 : Byte),
    (decodeFeedback m b0 b1 b2).rch = b0 &&& rxMaskByte m ∧
    (decodeFeedback m b0 b1 b2).rpos = b1 ++ b2.extractLsb' 0 6 ∧
    (decodeFeedback m b0 b1 b2).rpos =
      (b1.setWidth 14 <<< 6) ||| (b2 &&& 0x3F#8).setWidth 14

/-- R113: the result depends on the masked bits of b0, on all of b1 and on bits 5:0 of b2, and on
nothing else; it tells any two frames apart that differ there. -/
def Obligations.DecodeDependsOnNamedBits : Prop :=
  ∀ (m : RxMask) (b0 b1 b2 c0 c1 c2 : Byte),
    decodeFeedback m b0 b1 b2 = decodeFeedback m c0 c1 c2 ↔
      b0 &&& rxMaskByte m = c0 &&& rxMaskByte m ∧ b1 = c1 ∧
      b2.extractLsb' 0 6 = c2.extractLsb' 0 6

/-- R115: the three round trips, for every operand value and every mask, and the channels that do not
survive the default mask. -/
def Obligations.FieldRoundTrips : Prop :=
  (∀ p : Word, entryOf (decodePosition (posHi p) (posLo p)) = p &&& 0x0FFF#16) ∧
  (∀ (m : RxMask) (c : Byte), decodeChannel m (tagCh c) = c &&& rxMaskByte m) ∧
  (∀ c : Byte, 32 ≤ c.toNat → c.toNat < 64 → decodeChannel .m1F (tagCh c) ≠ c) ∧
  (∀ (m : RxMask) (ch : Byte) (pos : Word),
    (decodeFeedback m (tagCh ch) (posHi pos) (posLo pos)).rch = ch &&& rxMaskByte m ∧
    entryOf (decodeFeedback m (tagCh ch) (posHi pos) (posLo pos)).rpos = pos &&& 0x0FFF#16)

/-- R23: what FBRECV writes has bits 15:14 zero; from a well-formed frame it lies in 0..4095. -/
def Obligations.WrittenEntriesFit : Prop :=
  ∀ (m : RxMask) (b0 b1 b2 : Byte),
    (entryOf (decodeFeedback m b0 b1 b2).rpos).toNat < 2 ^ 14 ∧
    (wfF3 b0 b1 b2 = true → (entryOf (decodeFeedback m b0 b1 b2).rpos).toNat ≤ 4095)

/-- R116: a stream misaligned by one byte or by two decodes by the same formulas; misaligned by two it
gives at least 4096. -/
def Obligations.MisalignedFramesDecode : Prop :=
  ∀ (m : RxMask) (pHi pLo c pHi' : Byte), isChannelByte c = true →
    (decodeFeedback m pHi pLo c =
      { rch := pHi &&& rxMaskByte m, rpos := pLo ++ c.extractLsb' 0 6 }) ∧
    (decodeFeedback m pLo c pHi' =
      { rch := pLo &&& rxMaskByte m, rpos := c ++ pHi'.extractLsb' 0 6 }) ∧
    4096 ≤ (decodeFeedback m pLo c pHi').rpos.toNat

/-- R21, R110: every channel the decoder can report, and every index MOVEWAIT can test, is an entry. -/
def Obligations.EveryIndexExists : Prop :=
  ∀ (s : State) (ch : Byte), s.wf = true →
    (decodeChannel s.params.rxMask ch).toNat < s.pos.length ∧
    (∃ v, readEntry s (tableIndex s.params.rxMask ch) = some v) ∧
    (s.params.rxMask = .m0F → s.pos.length = 16) ∧
    (s.params.rxMask = .m1F → s.pos.length = 32) ∧
    (s.params.rxMask = .m3F → s.pos.length = 64)

/-! ### One event of each operation -/

/-- R30: an idle block accepts each operation and latches the operands the operation has; that FBREQ and
FBRECV leave the other latches is the model's choice (log entry 13). -/
def Obligations.IdleBlockIssues : Prop :=
  ∀ s : State, s.busy = false →
    (∀ ch pos spd, exec (.move ch pos spd) s =
      .next { s with busy := true, opk := .move, lch := ch, lpos := pos, lspd := spd, txi := 0 }) ∧
    (∀ ch, exec (.fbreq ch) s = .next { s with busy := true, opk := .fbreq, lch := ch, txi := 0 }) ∧
    exec .fbrecv s = .next { s with busy := true, opk := .fbrecv, rxi := 0 }

/-- A busy block refuses every operation but the one in progress: the model's choice (log entry 8), after
93_implementation_defined.md U12. -/
def Obligations.BusyBlockRefusesOthers : Prop :=
  ∀ (s : State) (i : Instr), s.busy = true → i ≠ s.inProgress →
    exec i s = .refused .issueWhileBusy

/-- R101: one byte step of a MOVE in progress; where the transport does not accept, the operation waits, and
only the environment's answers move on (a wait as a step is the model's choice, log entries 2 and 3). -/
def Obligations.MoveSendsOneByte : Prop :=
  ∀ (s : State) (ch : Byte) (pos : Word) (spd b : Byte),
    s.busy = true → s.opk = .move → s.lch = ch → s.lpos = pos → s.lspd = spd →
    (encodeMove ch pos spd)[s.txi.val]? = some b →
    ((txOffer s).1 = true → s.txi.val < 3 → exec (.move ch pos spd) s =
      .next { s with txHist := s.txHist ++ [b], txi := s.txi + 1, tx := (txOffer s).2 }) ∧
    ((txOffer s).1 = true → s.txi.val = 3 → exec (.move ch pos spd) s =
      .next { s with txHist := s.txHist ++ [b], txi := 0, busy := false, tx := (txOffer s).2 }) ∧
    ((txOffer s).1 = false → exec (.move ch pos spd) s = .next { s with tx := (txOffer s).2 })

/-- R101: one byte step of an FBREQ in progress, and its wait (log entries 2 and 3). -/
def Obligations.FbreqSendsOneByte : Prop :=
  ∀ (s : State) (ch b : Byte),
    s.busy = true → s.opk = .fbreq → s.lch = ch →
    (encodeFbReq ch)[s.txi.val]? = some b →
    ((txOffer s).1 = true → s.txi.val = 0 → exec (.fbreq ch) s =
      .next { s with txHist := s.txHist ++ [b], txi := 1, tx := (txOffer s).2 }) ∧
    ((txOffer s).1 = true → s.txi.val = 1 → exec (.fbreq ch) s =
      .next { s with txHist := s.txHist ++ [b], txi := 0, busy := false, tx := (txOffer s).2 }) ∧
    ((txOffer s).1 = false → exec (.fbreq ch) s = .next { s with tx := (txOffer s).2 })

/-- R118: one byte step of an FBRECV in progress, for each `rxi`, and the wait for a byte (a wait as a step
is the model's choice, log entries 2 and 3; the record of results is the model's, log entry 9). -/
def Obligations.FbrecvTakesOneByte : Prop :=
  ∀ s : State, s.busy = true → s.opk = .fbrecv →
    (∀ b, (rxOffer s).1 = some b → s.rxi = 0 → exec .fbrecv s =
      .next { s with rb0 := b, rxi := 1, rx := (rxOffer s).2 }) ∧
    (∀ b, (rxOffer s).1 = some b → s.rxi = 1 → exec .fbrecv s =
      .next { s with rb1 := b, rxi := 2, rx := (rxOffer s).2 }) ∧
    (∀ b r, (rxOffer s).1 = some b → s.rxi = 2 → s.pos.length = ntab s.params.rxMask →
      r = decodeFeedback s.params.rxMask s.rb0 s.rb1 b → exec .fbrecv s =
      .next { s with pos := s.pos.set r.rch.toNat (r.rpos.setWidth 16), results := s.results ++ [r],
                     busy := false, rxi := 0, rx := (rxOffer s).2 }) ∧
    ((rxOffer s).1 = none → exec .fbrecv s = .next { s with rx := (rxOffer s).2 })

/-! ### Whole operations -/

/-- R95, R101: MOVE from its issue to its completion, whatever finite waits the transport makes: the TX
history grows by exactly the four bytes, and nothing else but the sequencer changes. While the transport has
accepted fewer than four bytes, MOVE is in progress and those bytes are sent. Events are counted, and a wait
is one, by the model's choice (log entries 1, 2 and 3). -/
def Obligations.MoveSendsItsFourBytes : Prop :=
  ∀ (s : State) (ch : Byte) (pos : Word) (spd : Byte) (slots more : List Bool),
    s.busy = false → s.tx.now = slots ++ more →
    (Accepts 4 slots → execEvents (.move ch pos spd) (slots.length + 1) s =
      .next { s with opk := .move, lch := ch, lpos := pos, lspd := spd, txi := 0,
                     txHist := s.txHist ++ encodeMove ch pos spd, tx := { s.tx with now := more } }) ∧
    (slots.count true < 4 → ∃ t, execEvents (.move ch pos spd) (slots.length + 1) s = .next t ∧
      t.busy = true ∧ t.txHist = s.txHist ++ (encodeMove ch pos spd).take (slots.count true))

/-- R98, R101: FBREQ from its issue to its completion, and while the transport has accepted fewer than two
bytes. Events are counted, and a wait is one, by the model's choice (log entries 1, 2 and 3); that `lpos` and
`lspd` stay is the model's reading (log entry 13). -/
def Obligations.FbreqSendsItsTwoBytes : Prop :=
  ∀ (s : State) (ch : Byte) (slots more : List Bool),
    s.busy = false → s.tx.now = slots ++ more →
    (Accepts 2 slots → execEvents (.fbreq ch) (slots.length + 1) s =
      .next { s with opk := .fbreq, lch := ch, txi := 0,
                     txHist := s.txHist ++ encodeFbReq ch, tx := { s.tx with now := more } }) ∧
    (slots.count true < 2 → ∃ t, execEvents (.fbreq ch) (slots.length + 1) s = .next t ∧
      t.busy = true ∧ t.txHist = s.txHist ++ (encodeFbReq ch).take (slots.count true))

/-- R114, R118: FBRECV from its issue to its completion: three bytes taken, exactly one entry written, the
result returned. While fewer than three bytes have come, FBRECV is in progress and has written nothing.
Events are counted, and a wait is one, by the model's choice (log entries 1, 2 and 3); the result goes to the
model's record (log entry 9); that the latched operands stay is the model's reading (log entry 13). -/
def Obligations.FbrecvWritesTheReportedEntry : Prop :=
  ∀ (s : State) (slots more : List (Option Byte)),
    s.busy = false → s.pos.length = ntab s.params.rxMask → s.rx.now = slots ++ more →
    (∀ (b0 b1 b2 : Byte) (r : FbResult), Supplies [b0, b1, b2] slots →
      r = decodeFeedback s.params.rxMask b0 b1 b2 →
      execEvents .fbrecv (slots.length + 1) s =
        .next { s with opk := .fbrecv, rxi := 0, rb0 := b0, rb1 := b1,
                       pos := s.pos.set r.rch.toNat (r.rpos.setWidth 16),
                       results := s.results ++ [r], rx := { s.rx with now := more } }) ∧
    (slots.reduceOption.length < 3 → ∃ t, execEvents .fbrecv (slots.length + 1) s = .next t ∧
      t.busy = true ∧ t.pos = s.pos ∧ t.results = s.results)

/-! ### Frames: what an operation leaves unchanged -/

/-- MOVE and FBREQ (R95, R98): the table, the receiver's latches, the RX stream, the results, the program
and the parameters stay; the TX history gains at most one byte; once issued the operands stay. -/
def Obligations.SendersLeaveTheRest : Prop :=
  ∀ (i : Instr) (s t : State), i ≠ .fbrecv → exec i s = .next t →
    t.params = s.params ∧ t.pos = s.pos ∧ t.rxi = s.rxi ∧ t.rb0 = s.rb0 ∧ t.rb1 = s.rb1 ∧
    t.results = s.results ∧ t.program = s.program ∧ t.rx = s.rx ∧
    (t.txHist = s.txHist ∨ ∃ b, t.txHist = s.txHist ++ [b]) ∧
    (s.busy = false → t.txHist = s.txHist ∧ t.tx = s.tx) ∧
    (s.busy = true → t.opk = s.opk ∧ t.lch = s.lch ∧ t.lpos = s.lpos ∧ t.lspd = s.lspd) ∧
    ((∃ ch, i = .fbreq ch) → t.lpos = s.lpos ∧ t.lspd = s.lspd)

/-- FBRECV (R114, R47): the TX side, the latched operands, the program and the parameters stay; before the
third byte the table and the results stay; at the third byte every entry but the reported one stays. -/
def Obligations.ReceiverLeavesTheRest : Prop :=
  ∀ s t : State, exec .fbrecv s = .next t →
    t.params = s.params ∧ t.lch = s.lch ∧ t.lpos = s.lpos ∧ t.lspd = s.lspd ∧ t.txi = s.txi ∧
    t.txHist = s.txHist ∧ t.tx = s.tx ∧ t.program = s.program ∧
    ((s.busy = false ∨ s.rxi ≠ 2) → t.pos = s.pos ∧ t.results = s.results) ∧
    (∀ j, j ≠ (decodeChannel s.params.rxMask s.rb0).toNat → readEntry t j = readEntry s j) ∧
    t.pos.length = s.pos.length

/-! ### The step -/

/-- R25: an idle block whose host's next operation is `i` executes `i`, and the host's program moves past
it. -/
def Obligations.StepIssuesTheNextOperation : Prop :=
  ∀ (s : State) (i : Instr) (rest : List HostOp), s.busy = false → s.program = .op i :: rest →
    step s = exec i { s with program := rest } ∧ ∃ t, step s = .next t

/-- R7, R30: while an operation is in progress, a step is one event of that operation, rebuilt from the
latches; the host's program does not move. -/
def Obligations.StepResumesTheOperation : Prop :=
  ∀ s : State, s.busy = true →
    (s.opk = .move → step s = exec (.move s.lch s.lpos s.lspd) s) ∧
    (s.opk = .fbreq → step s = exec (.fbreq s.lch) s) ∧
    (s.opk = .fbrecv → step s = exec .fbrecv s) ∧
    (∀ t, step s = .next t → t.program = s.program)

/-- A frame placed by `withFetchWord` is executed by the very next step as the operation the decoder
reads from it; FBRECV's three bytes stand at the front of the RX stream: the model's choice (log entries
11 and 14). -/
def Obligations.FetchWordRunsTheDecodedOperation : Prop :=
  ∀ (s : State) (nbits w : Nat) (i : Instr), decodeTableWord nbits w = some i →
    (i ≠ .fbrecv → step (s.withFetchWord nbits w) =
      exec i { s with busy := false, txi := 0, rxi := 0 }) ∧
    (i = .fbrecv → step (s.withFetchWord nbits w) =
      exec i { s with busy := false, txi := 0, rxi := 0,
                      rx := { s.rx with now := (bytesOfWord (nbits / 8) w).map some ++ s.rx.now } })

/-- After the last operation the block waits for the host: nothing changes (R172; standing still as a step
is the model's choice, log entry 2). -/
def Obligations.FinishedMachineStandsStill : Prop :=
  ∀ (s : State) (k : Nat), s.finished = true → runSteps k s = .next s

/-! ### MOVEWAIT -/

/-- R130: MOVEWAIT is the MOVE, then the loop; expanding it changes nothing else. -/
def Obligations.MoveWaitExpands : Prop :=
  ∀ (s : State) (ch : Byte) (pos : Word) (spd : Byte) (rest : List HostOp),
    s.busy = false → s.program = .moveWait ch pos spd :: rest →
    step s = .next { s with program := .op (.move ch pos spd) :: .poll ch pos :: rest }

/-- R131: the exit test compares the whole entry with the whole target; it leaves the loop or starts one
round trip, and changes nothing else. -/
def Obligations.ExitTestIsEquality : Prop :=
  ∀ (s : State) (ch : Byte) (pos v : Word) (rest : List HostOp),
    s.busy = false → s.program = .poll ch pos :: rest →
    readEntry s (ch &&& rxMaskByte s.params.rxMask).toNat = some v →
    (v = pos → step s = .next { s with program := rest }) ∧
    (v ≠ pos → step s =
      .next { s with program := .op (.fbreq ch) :: .op .fbrecv :: .poll ch pos :: rest })

/-- R132: a MOVEWAIT whose entry already holds the target sends its move command and nothing else, and
receives nothing. Steps, waits as steps and listed answers are the model's (log entries 1, 2 and 3). -/
def Obligations.ZeroRoundTrips : Prop :=
  ∀ (s : State) (ch : Byte) (pos : Word) (spd : Byte) (rest : List HostOp) (slots more : List Bool),
    s.busy = false → s.program = .moveWait ch pos spd :: rest →
    readEntry s (tableIndex s.params.rxMask ch) = some pos →
    s.tx.now = slots ++ more → Accepts 4 slots →
    runSteps (slots.length + 3) s =
      .next { s with program := rest, opk := .move, lch := ch, lpos := pos, lspd := spd, txi := 0,
                     txHist := s.txHist ++ encodeMove ch pos spd, tx := { s.tx with now := more } }

/-- R134: a response for another channel overwrites that channel's entry, leaves the polled one, and the
poller's next operation is a request for its own channel. That an FBRECV is inside a MOVEWAIT is read off the
loop's head, an item of the program by the model's choice (log entry 10), and the byte step and the exit test
are two of the model's steps (log entry 1). -/
def Obligations.ResponseForAnotherChannel : Prop :=
  ∀ (s : State) (ch : Byte) (pos v : Word) (rest : List HostOp) (b : Byte) (r : FbResult),
    s.wf = true → s.busy = true → s.opk = .fbrecv → s.rxi = 2 →
    s.program = .poll ch pos :: rest → (rxOffer s).1 = some b →
    r = decodeFeedback s.params.rxMask s.rb0 s.rb1 b →
    r.rch.toNat ≠ tableIndex s.params.rxMask ch →
    readEntry s (tableIndex s.params.rxMask ch) = some v → v ≠ pos →
    ∃ t, runSteps 2 s = .next t ∧ readEntry t r.rch.toNat = some (entryOf r.rpos) ∧
      readEntry t (tableIndex s.params.rxMask ch) = some v ∧
      t.program = .op (.fbreq ch) :: .op .fbrecv :: .poll ch pos :: rest

/-- R135: from Moving the only move is to Polling; from Polling to Polling, or through the test to Moving
or Arrived; from Arrived the loop is left. Which of the model's states are Moving, Polling and Arrived is the
model's choice (log entries 10 and 19). -/
def Obligations.PollerPhasesFollow : Prop :=
  ∀ s t : State, s.wf = true → step s = .next t →
    (s.pollerPhase = some .moving → t.pollerPhase = some .polling) ∧
    (s.pollerPhase = some .polling → t.pollerPhase = some .polling ∨
      t.pollerPhase = some .moving ∨ t.pollerPhase = some .arrived) ∧
    (s.pollerPhase = some .arrived → t = { s with program := s.program.tail })

/-- R138, R140: under the premises that the line accepts every byte at once and that the board answers, at
once, aligned, for the channel asked, and reports the target at the last of `n` responses and not before,
MOVEWAIT completes after `n` round trips and leaves what R138 says. The results stand in the model's record
(R13 (c), R114; log entry 9), the number of steps is the model's (log entry 1) and the answers are lists (log
entry 3). For runs with waits see `MoveWaitCompletesDespiteWaits`. -/
def Obligations.MoveWaitCompletes : Prop :=
  ∀ (s : State) (ch : Byte) (pos held : Word) (spd : Byte) (rest : List HostOp)
    (responses : List Frame3) (more : List (Option Byte)),
    s.wf = true → s.busy = false → s.program = .moveWait ch pos spd :: rest →
    s.tx.alwaysAccepts →
    s.rx.now = (responses.flatMap Frame3.bytes).map some ++ more →
    (∀ f ∈ responses, f.reports s.params.rxMask (tableIndex s.params.rxMask ch)) →
    readEntry s (tableIndex s.params.rxMask ch) = some held →
    (held :: responses.map (Frame3.entry s.params.rxMask)).getLast? = some pos →
    (∀ v ∈ (held :: responses.map (Frame3.entry s.params.rxMask)).dropLast, v ≠ pos) →
    ∃ t, runSteps (7 + 8 * responses.length) s = .next t ∧
      t.busy = false ∧ t.program = rest ∧
      t.txHist = s.txHist ++ encodeMove ch pos spd ++
        (List.replicate responses.length (encodeFbReq ch)).flatten ∧
      t.pos = s.pos.set (tableIndex s.params.rxMask ch) pos ∧
      t.results = s.results ++ responses.map (Frame3.decoded s.params.rxMask) ∧
      t.rx = { s.rx with now := more } ∧ t.params = s.params

/-- R138: in every run of the one operation MOVEWAIT, under no premise about the environment, a MOVEWAIT that
has completed after `n` round trips has sent its move command and `n` requests, all for its own channel, has
received `n` responses of three bytes each, and its entry equals the target. The responses are counted in the
model's record of results (log entry 9) and their bytes in the listed answers (log entry 3). For a MOVEWAIT
with operations after it see `CompletedMoveWaitInAProgram`. -/
def Obligations.CompletedMoveWaitTrace : Prop :=
  ∀ (s t : State) (ch : Byte) (pos : Word) (spd : Byte) (k : Nat),
    s.busy = false → s.program = [.moveWait ch pos spd] →
    runSteps k s = .next t → t.finished = true →
    ∃ n, t.txHist = s.txHist ++ encodeMove ch pos spd ++ (List.replicate n (encodeFbReq ch)).flatten ∧
      readEntry t (tableIndex s.params.rxMask ch) = some pos ∧
      t.results.length = s.results.length + n ∧
      (s.rx.tail = .again [] → ∃ taken : List Byte,
        s.rx.now.reduceOption = taken ++ t.rx.now.reduceOption ∧ taken.length = 3 * n)

/-- R136: a target of 16384 or more that the entry does not already hold is never reached, whatever the
environment supplies; the MOVEWAIT is the host's one operation. -/
def Obligations.UnreachableTargetNeverCompletes : Prop :=
  ∀ (s t : State) (ch : Byte) (pos : Word) (spd : Byte) (k : Nat),
    s.busy = false → s.program = [.moveWait ch pos spd] → 16384 ≤ pos.toNat →
    readEntry s (tableIndex s.params.rxMask ch) ≠ some pos →
    runSteps k s = .next t → t.finished = false

/-- R133, R157 (d): while the line accepts bytes and the board keeps giving an answer that does not bring
the entry to the target, MOVEWAIT's exit test fails without end (log entry 18), and it sends without end. -/
def Obligations.UnansweredTargetHangs : Prop :=
  ∀ (s : State) (ch : Byte) (pos : Word) (spd : Byte) (rest : List HostOp) (f : Frame3),
    s.wf = true → s.busy = false → s.program = .moveWait ch pos spd :: rest →
    s.tx.alwaysAccepts → s.rx.now = [] → s.rx.tail = .again (f.bytes.map some) →
    readEntry s (tableIndex s.params.rxMask ch) ≠ some pos →
    (f.reports s.params.rxMask (tableIndex s.params.rxMask ch) → f.entry s.params.rxMask ≠ pos) →
    s.comesTo .hangs ∧ ∀ n, ∃ k t, runSteps k s = .next t ∧ n ≤ t.txHist.length

/-! ### The whole machine -/

/-- R33, R170: the state after reset, for every choice of the parameters; the empty program and the empty
record of results are the model's (log entries 9 and 14). -/
def Obligations.ResetIsAsSpecified : Prop :=
  ∀ p : Params, (State.resetWith p).busy = false ∧ (State.resetWith p).txi = 0 ∧
    (State.resetWith p).rxi = 0 ∧ (State.resetWith p).txHist = [] ∧
    (State.resetWith p).results = [] ∧ (State.resetWith p).program = [] ∧
    (State.resetWith p).params = p ∧
    (State.resetWith p).pos.length = ntab p.rxMask ∧
    (p.posReset = .zero → ∀ v ∈ (State.resetWith p).pos, v = 0)

/-- The invariant holds after reset, for every choice of the parameters. -/
def Obligations.ResetIsWellFormed : Prop :=
  ∀ p : Params, (State.resetWith p).wf = true

/-- Every step keeps the invariant: the table keeps its `NTAB` entries (R21) and the byte indices stay in
their ranges (R30). -/
def Obligations.StepKeepsWellFormed : Prop :=
  ∀ s t : State, s.wf = true → step s = .next t → t.wf = true

/-- R150: no exception exists: from a well-formed state no run faults or is refused. -/
def Obligations.NoRunStops : Prop :=
  ∀ (s : State) (k : Nat), s.wf = true → ∃ t, runSteps k s = .next t ∧ t.wf = true

/-- R22, R47: the table changes only at the step in which an FBRECV takes its third byte, and there as one
whole entry, the reported one. The result goes to the model's record (log entry 9). -/
def Obligations.OnlyTheThirdByteWritesTheTable : Prop :=
  ∀ s t : State, step s = .next t → t.pos ≠ s.pos →
    s.busy = true ∧ s.opk = .fbrecv ∧ s.rxi = 2 ∧
    ∃ b, (rxOffer s).1 = some b ∧
      t.pos = s.pos.set (decodeChannel s.params.rxMask s.rb0).toNat
        (entryOf (decodePosition s.rb1 b)) ∧
      t.results = s.results ++ [decodeFeedback s.params.rxMask s.rb0 s.rb1 b]

/-- R52 (b), R70: no step takes a byte out of the TX history or adds more than one, and every byte the block
sends has bit 7 clear. -/
def Obligations.SentBytesHaveBitSevenClear : Prop :=
  ∀ s t : State, (∀ b ∈ s.txHist, b.toNat < 0x80) → step s = .next t →
    (∀ b ∈ t.txHist, b.toNat < 0x80) ∧
    (t.txHist = s.txHist ∨ ∃ b, t.txHist = s.txHist ++ [b])

/-- R27: no step writes the parameters (they stand in the state by the model's choice, log entry 7). -/
def Obligations.ParametersAreFixed : Prop :=
  ∀ s t : State, step s = .next t → t.params = s.params

/-- R30, R52 (a): while an operation is in progress its kind and its latched operands do not change, and the
host's program does not move. -/
def Obligations.OperandsStayLatched : Prop :=
  ∀ s t : State, s.busy = true → step s = .next t →
    t.opk = s.opk ∧ t.lch = s.lch ∧ t.lpos = s.lpos ∧ t.lspd = s.lspd ∧ t.program = s.program

/-- R29, R119: only a receive step consumes from the RX stream and only a send step asks the transport; each
consumes exactly one answer, in order. -/
def Obligations.StreamsAreConsumedInOrder : Prop :=
  ∀ s t : State, step s = .next t →
    (t.rx ≠ s.rx → s.busy = true ∧ s.opk = .fbrecv ∧ t.rx = (rxOffer s).2) ∧
    (t.tx ≠ s.tx → s.busy = true ∧ s.opk ≠ .fbrecv ∧ t.tx = (txOffer s).2)

/-- R157 (b), (c), R118: a stuck operation never goes on: whatever the number of steps, only the
environment's answers move, and the run is stuck still (waiting as a step is the model's choice, log
entry 2). -/
def Obligations.StuckStaysStuck : Prop :=
  ∀ (s : State) (k : Nat), s.wf = true →
    (s.stuckInSend → ∃ tx', runSteps k s = .next { s with tx := tx' } ∧
      State.stuckInSend { s with tx := tx' }) ∧
    (s.stuckInRecv → ∃ rx', runSteps k s = .next { s with rx := rx' } ∧
      State.stuckInRecv { s with rx := rx' })

/-- R30, R33, U4: the latches of an idle block are read by no rule: two idle states that differ in them alone
give the same observation after every number of steps. -/
def Obligations.IdleLatchesAreUnobservable : Prop :=
  ∀ (s t : State) (k : Nat), s.busy = false →
    t = { s with opk := t.opk, lch := t.lch, lpos := t.lpos, lspd := t.lspd,
                 rb0 := t.rb0, rb1 := t.rb1 } →
    ∀ s', runSteps k s = .next s' → ∃ t', runSteps k t = .next t' ∧ t'.observe = s'.observe

/-- R50: two channel bytes select the same entry exactly when they agree in the bits the mask keeps; under
`0x0F` channel 16 lands on channel 0's entry, under the default it does not. -/
def Obligations.AliasingFollowsTheMask : Prop :=
  (∀ (m : RxMask) (a b : Byte), tableIndex m a = tableIndex m b ↔
    a &&& rxMaskByte m = b &&& rxMaskByte m) ∧
  tableIndex .m0F (tagCh 16) = tableIndex .m0F (tagCh 0) ∧
  tableIndex .m1F (tagCh 16) ≠ tableIndex .m1F (tagCh 0)

/-- R99: what a send step puts on the line depends on the latched operands and the byte index alone: two
states that agree on them, however their tables, histories and received bytes differ, send the same byte. -/
def Obligations.EncodingIsStateless : Prop :=
  ∀ (i : Instr) (s s' t t' : State), i ≠ .fbrecv →
    s.busy = true → s'.busy = true → s.txi = s'.txi →
    (txOffer s).1 = (txOffer s').1 →
    exec i s = .next t → exec i s' = .next t' →
    ∃ sent, t.txHist = s.txHist ++ sent ∧ t'.txHist = s'.txHist ++ sent ∧
      ((txOffer s).1 = true → sent.length = 1)

/-- R157, R13 (d): the outcomes of a run are the four, and each run comes to exactly one of them, whatever the
program and whatever form the environment's answers have, the free answers at reset among them (log entry
18). -/
def Obligations.EveryRunHasOneOutcome : Prop :=
  ∀ s : State, s.wf = true → ∃ o, s.comesTo o ∧ ∀ o', s.comesTo o' → o' = o

/-- R138, R140: MOVEWAIT completes after `n` round trips also where the transport accepts each byte only in the
end (R140 (e)) and the board's bytes come with finite waits between them. The results stand in the model's
record (R13 (c), R114; log entry 9), a wait is a step (log entries 1 and 2) and the answers are lists (log
entry 3). -/
def Obligations.MoveWaitCompletesDespiteWaits : Prop :=
  ∀ (s : State) (ch : Byte) (pos held : Word) (spd : Byte) (rest : List HostOp)
    (responses : List Frame3) (slots more : List (Option Byte)),
    s.wf = true → s.busy = false → s.program = .moveWait ch pos spd :: rest →
    s.tx.servesForever Config.txOracle id →
    s.rx.now = slots ++ more → Supplies (responses.flatMap Frame3.bytes) slots →
    (∀ f ∈ responses, f.reports s.params.rxMask (tableIndex s.params.rxMask ch)) →
    readEntry s (tableIndex s.params.rxMask ch) = some held →
    (held :: responses.map (Frame3.entry s.params.rxMask)).getLast? = some pos →
    (∀ v ∈ (held :: responses.map (Frame3.entry s.params.rxMask)).dropLast, v ≠ pos) →
    ∃ k t, runSteps k s = .next t ∧
      t.busy = false ∧ t.program = rest ∧
      t.txHist = s.txHist ++ encodeMove ch pos spd ++
        (List.replicate responses.length (encodeFbReq ch)).flatten ∧
      t.pos = s.pos.set (tableIndex s.params.rxMask ch) pos ∧
      t.results = s.results ++ responses.map (Frame3.decoded s.params.rxMask) ∧
      t.rx = { s.rx with now := more } ∧ t.params = s.params

/-- R138: what a MOVEWAIT leaves behind, whatever stands after it in the host's program and under no premise
about the environment: at the first state whose program is what follows the MOVEWAIT, the block is idle, the
move command and `n` requests have been sent, `n` responses have been received and the entry equals the
target. The responses are counted in the model's record of results (log entry 9), their bytes in the listed
answers (log entry 3), and completion is read off the program (log entry 10). -/
def Obligations.CompletedMoveWaitInAProgram : Prop :=
  ∀ (s t : State) (ch : Byte) (pos : Word) (spd : Byte) (rest : List HostOp) (k : Nat),
    s.busy = false → s.program = .moveWait ch pos spd :: rest →
    runSteps k s = .next t → t.program = rest →
    (∀ j u, j < k → runSteps j s = .next u → u.program ≠ rest) →
    t.busy = false ∧
    ∃ n, t.txHist = s.txHist ++ encodeMove ch pos spd ++ (List.replicate n (encodeFbReq ch)).flatten ∧
      readEntry t (tableIndex s.params.rxMask ch) = some pos ∧
      t.results.length = s.results.length + n ∧
      (s.rx.tail = .again [] → ∃ taken : List Byte,
        s.rx.now.reduceOption = taken ++ t.rx.now.reduceOption ∧ taken.length = 3 * n)
end

