-- ==== Sys2Proof/Laws/Operands.lean ====
section
/-! SUPPORT. What the byte builders and the decoder's formulas compute, bit by bit, and the frames'
lengths. -/

namespace Sys2Proof.Machine

/-! ### Frames -/

theorem encodeMove_length (ch : Byte) (pos : Word) (spd : Byte) :
    (encodeMove ch pos spd).length = 4 := rfl

theorem encodeFbReq_length (ch : Byte) : (encodeFbReq ch).length = 2 := rfl

/-! ### The size of the table -/

theorem ntab_values : ntab .m0F = 16 ∧ ntab .m1F = 32 ∧ ntab .m3F = 64 := by decide

/-- Every channel byte the mask leaves is an index of the table (R21). -/
theorem and_mask_lt_ntab (m : RxMask) (b : Byte) : (b &&& rxMaskByte m).toNat < ntab m := by
  rw [BitVec.toNat_and]
  exact Nat.lt_succ_of_le Nat.and_le_right

theorem tableIndex_lt_ntab (m : RxMask) (b : Byte) : tableIndex m b < ntab m :=
  and_mask_lt_ntab m b

/-! ### Bits -/

theorem getLsbD_tagCh (ch : Byte) (i : Nat) :
    (tagCh ch).getLsbD i = (decide (i < 6) && ch.getLsbD i || decide (i = 6)) := by
  by_cases h : i < 8
  · interval_cases i <;> simp [tagCh]
  · rw [BitVec.getLsbD_of_ge _ _ (by omega), BitVec.getLsbD_of_ge _ _ (by omega)]
    simp; omega

theorem getLsbD_posHi (pos : Word) (i : Nat) :
    (posHi pos).getLsbD i = (decide (i < 6) && pos.getLsbD (6 + i)) := by
  by_cases h : i < 8
  · interval_cases i <;> simp [posHi]
  · rw [BitVec.getLsbD_of_ge _ _ (by omega)]
    simp; omega

theorem getLsbD_posLo (pos : Word) (i : Nat) :
    (posLo pos).getLsbD i = (decide (i < 6) && pos.getLsbD i) := by
  by_cases h : i < 8
  · interval_cases i <;> simp [posLo]
  · rw [BitVec.getLsbD_of_ge _ _ (by omega)]
    simp; omega

theorem getLsbD_spdByte (spd : Byte) (i : Nat) :
    (spdByte spd).getLsbD i = (decide (i < 6) && spd.getLsbD i) := by
  by_cases h : i < 8
  · interval_cases i <;> simp [spdByte]
  · rw [BitVec.getLsbD_of_ge _ _ (by omega)]
    simp; omega

theorem getLsbD_decodePosition (b1 b2 : Byte) (i : Nat) :
    (decodePosition b1 b2).getLsbD i = if i < 6 then b2.getLsbD i else b1.getLsbD (i - 6) := by
  by_cases h : i < 14
  · interval_cases i <;> simp [decodePosition]
  · rw [BitVec.getLsbD_of_ge _ _ (by omega), if_neg (by omega), BitVec.getLsbD_of_ge _ _ (by omega)]

theorem getLsbD_entryOf (r : RPos) (i : Nat) :
    (entryOf r).getLsbD i = (decide (i < 16) && r.getLsbD i) := by
  rw [entryOf, BitVec.getLsbD_setWidth]

theorem getLsbD_positionOf (b1 b2 : Byte) (i : Nat) :
    (positionOf b1 b2).getLsbD i =
      (decide (i < 16) && (decide (6 ≤ i) && b1.getLsbD (i - 6) || b2.getLsbD i)) := by
  rw [positionOf, BitVec.getLsbD_or, BitVec.getLsbD_shiftLeft, BitVec.getLsbD_setWidth,
    BitVec.getLsbD_setWidth]
  by_cases h : i < 16
  · interval_cases i <;> simp
  · simp [h]

/-! ### Tags -/

theorem tagBits_eq_iff {b : Byte} {v : BitVec 2} :
    tagBits b = v ↔ b.getLsbD 6 = v.getLsbD 0 ∧ b.getLsbD 7 = v.getLsbD 1 := by
  constructor
  · rintro rfl; simp [tagBits]
  · intro ⟨h6, h7⟩
    apply BitVec.eq_of_getLsbD_eq
    intro i hi
    interval_cases i
    · simpa [tagBits] using h6
    · simpa [tagBits] using h7

theorem isChannelByte_iff {b : Byte} :
    isChannelByte b = true ↔ b.getLsbD 6 = true ∧ b.getLsbD 7 = false := by
  simp only [isChannelByte, beq_iff_eq, tagBits_eq_iff]; rfl

theorem isSextetByte_iff {b : Byte} :
    isSextetByte b = true ↔ b.getLsbD 6 = false ∧ b.getLsbD 7 = false := by
  simp only [isSextetByte, beq_iff_eq, tagBits_eq_iff]; rfl

theorem isChannelByte_tagCh (ch : Byte) : isChannelByte (tagCh ch) = true := by
  rw [isChannelByte_iff, getLsbD_tagCh, getLsbD_tagCh]; simp

theorem isSextetByte_posHi (pos : Word) : isSextetByte (posHi pos) = true := by
  rw [isSextetByte_iff, getLsbD_posHi, getLsbD_posHi]; simp

theorem isSextetByte_posLo (pos : Word) : isSextetByte (posLo pos) = true := by
  rw [isSextetByte_iff, getLsbD_posLo, getLsbD_posLo]; simp

theorem isSextetByte_spdByte (spd : Byte) : isSextetByte (spdByte spd) = true := by
  rw [isSextetByte_iff, getLsbD_spdByte, getLsbD_spdByte]; simp

/-- A position or speed byte is no channel byte (R66). -/
theorem not_isChannelByte_of_isSextetByte {b : Byte} (h : isSextetByte b = true) :
    isChannelByte b = false := by
  simp only [isSextetByte, isChannelByte, beq_iff_eq] at *
  rw [h]; decide

end Sys2Proof.Machine
end

