-- ==== Sys2Proof/Laws/State.lean ====
section
/-! SUPPORT. What each update of the state leaves in each field. -/

namespace Sys2Proof.Machine

variable (s : State)

/-! ### issueMove -/

@[simp] theorem State.issueMove_params (ch : Byte) (p : Word) (spd : Byte) : (s.issueMove ch p spd).params = s.params := rfl
@[simp] theorem State.issueMove_pos (ch : Byte) (p : Word) (spd : Byte) : (s.issueMove ch p spd).pos = s.pos := rfl
@[simp] theorem State.issueMove_busy (ch : Byte) (p : Word) (spd : Byte) : (s.issueMove ch p spd).busy = true := rfl
@[simp] theorem State.issueMove_opk (ch : Byte) (p : Word) (spd : Byte) : (s.issueMove ch p spd).opk = .move := rfl
@[simp] theorem State.issueMove_lch (ch : Byte) (p : Word) (spd : Byte) : (s.issueMove ch p spd).lch = ch := rfl
@[simp] theorem State.issueMove_lpos (ch : Byte) (p : Word) (spd : Byte) : (s.issueMove ch p spd).lpos = p := rfl
@[simp] theorem State.issueMove_lspd (ch : Byte) (p : Word) (spd : Byte) : (s.issueMove ch p spd).lspd = spd := rfl
@[simp] theorem State.issueMove_txi (ch : Byte) (p : Word) (spd : Byte) : (s.issueMove ch p spd).txi = 0 := rfl
@[simp] theorem State.issueMove_rxi (ch : Byte) (p : Word) (spd : Byte) : (s.issueMove ch p spd).rxi = s.rxi := rfl
@[simp] theorem State.issueMove_rb0 (ch : Byte) (p : Word) (spd : Byte) : (s.issueMove ch p spd).rb0 = s.rb0 := rfl
@[simp] theorem State.issueMove_rb1 (ch : Byte) (p : Word) (spd : Byte) : (s.issueMove ch p spd).rb1 = s.rb1 := rfl
@[simp] theorem State.issueMove_txHist (ch : Byte) (p : Word) (spd : Byte) : (s.issueMove ch p spd).txHist = s.txHist := rfl
@[simp] theorem State.issueMove_results (ch : Byte) (p : Word) (spd : Byte) : (s.issueMove ch p spd).results = s.results := rfl
@[simp] theorem State.issueMove_program (ch : Byte) (p : Word) (spd : Byte) : (s.issueMove ch p spd).program = s.program := rfl
@[simp] theorem State.issueMove_tx (ch : Byte) (p : Word) (spd : Byte) : (s.issueMove ch p spd).tx = s.tx := rfl
@[simp] theorem State.issueMove_rx (ch : Byte) (p : Word) (spd : Byte) : (s.issueMove ch p spd).rx = s.rx := rfl

/-! ### issueFbreq -/

@[simp] theorem State.issueFbreq_params (ch : Byte) : (s.issueFbreq ch).params = s.params := rfl
@[simp] theorem State.issueFbreq_pos (ch : Byte) : (s.issueFbreq ch).pos = s.pos := rfl
@[simp] theorem State.issueFbreq_busy (ch : Byte) : (s.issueFbreq ch).busy = true := rfl
@[simp] theorem State.issueFbreq_opk (ch : Byte) : (s.issueFbreq ch).opk = .fbreq := rfl
@[simp] theorem State.issueFbreq_lch (ch : Byte) : (s.issueFbreq ch).lch = ch := rfl
@[simp] theorem State.issueFbreq_lpos (ch : Byte) : (s.issueFbreq ch).lpos = s.lpos := rfl
@[simp] theorem State.issueFbreq_lspd (ch : Byte) : (s.issueFbreq ch).lspd = s.lspd := rfl
@[simp] theorem State.issueFbreq_txi (ch : Byte) : (s.issueFbreq ch).txi = 0 := rfl
@[simp] theorem State.issueFbreq_rxi (ch : Byte) : (s.issueFbreq ch).rxi = s.rxi := rfl
@[simp] theorem State.issueFbreq_rb0 (ch : Byte) : (s.issueFbreq ch).rb0 = s.rb0 := rfl
@[simp] theorem State.issueFbreq_rb1 (ch : Byte) : (s.issueFbreq ch).rb1 = s.rb1 := rfl
@[simp] theorem State.issueFbreq_txHist (ch : Byte) : (s.issueFbreq ch).txHist = s.txHist := rfl
@[simp] theorem State.issueFbreq_results (ch : Byte) : (s.issueFbreq ch).results = s.results := rfl
@[simp] theorem State.issueFbreq_program (ch : Byte) : (s.issueFbreq ch).program = s.program := rfl
@[simp] theorem State.issueFbreq_tx (ch : Byte) : (s.issueFbreq ch).tx = s.tx := rfl
@[simp] theorem State.issueFbreq_rx (ch : Byte) : (s.issueFbreq ch).rx = s.rx := rfl

/-! ### issueFbrecv -/

@[simp] theorem State.issueFbrecv_params : s.issueFbrecv.params = s.params := rfl
@[simp] theorem State.issueFbrecv_pos : s.issueFbrecv.pos = s.pos := rfl
@[simp] theorem State.issueFbrecv_busy : s.issueFbrecv.busy = true := rfl
@[simp] theorem State.issueFbrecv_opk : s.issueFbrecv.opk = .fbrecv := rfl
@[simp] theorem State.issueFbrecv_lch : s.issueFbrecv.lch = s.lch := rfl
@[simp] theorem State.issueFbrecv_lpos : s.issueFbrecv.lpos = s.lpos := rfl
@[simp] theorem State.issueFbrecv_lspd : s.issueFbrecv.lspd = s.lspd := rfl
@[simp] theorem State.issueFbrecv_txi : s.issueFbrecv.txi = s.txi := rfl
@[simp] theorem State.issueFbrecv_rxi : s.issueFbrecv.rxi = 0 := rfl
@[simp] theorem State.issueFbrecv_rb0 : s.issueFbrecv.rb0 = s.rb0 := rfl
@[simp] theorem State.issueFbrecv_rb1 : s.issueFbrecv.rb1 = s.rb1 := rfl
@[simp] theorem State.issueFbrecv_txHist : s.issueFbrecv.txHist = s.txHist := rfl
@[simp] theorem State.issueFbrecv_results : s.issueFbrecv.results = s.results := rfl
@[simp] theorem State.issueFbrecv_program : s.issueFbrecv.program = s.program := rfl
@[simp] theorem State.issueFbrecv_tx : s.issueFbrecv.tx = s.tx := rfl
@[simp] theorem State.issueFbrecv_rx : s.issueFbrecv.rx = s.rx := rfl

/-! ### sendWaited -/

@[simp] theorem State.sendWaited_params (f : Feed Bool) : (s.sendWaited f).params = s.params := rfl
@[simp] theorem State.sendWaited_pos (f : Feed Bool) : (s.sendWaited f).pos = s.pos := rfl
@[simp] theorem State.sendWaited_busy (f : Feed Bool) : (s.sendWaited f).busy = s.busy := rfl
@[simp] theorem State.sendWaited_opk (f : Feed Bool) : (s.sendWaited f).opk = s.opk := rfl
@[simp] theorem State.sendWaited_lch (f : Feed Bool) : (s.sendWaited f).lch = s.lch := rfl
@[simp] theorem State.sendWaited_lpos (f : Feed Bool) : (s.sendWaited f).lpos = s.lpos := rfl
@[simp] theorem State.sendWaited_lspd (f : Feed Bool) : (s.sendWaited f).lspd = s.lspd := rfl
@[simp] theorem State.sendWaited_txi (f : Feed Bool) : (s.sendWaited f).txi = s.txi := rfl
@[simp] theorem State.sendWaited_rxi (f : Feed Bool) : (s.sendWaited f).rxi = s.rxi := rfl
@[simp] theorem State.sendWaited_rb0 (f : Feed Bool) : (s.sendWaited f).rb0 = s.rb0 := rfl
@[simp] theorem State.sendWaited_rb1 (f : Feed Bool) : (s.sendWaited f).rb1 = s.rb1 := rfl
@[simp] theorem State.sendWaited_txHist (f : Feed Bool) : (s.sendWaited f).txHist = s.txHist := rfl
@[simp] theorem State.sendWaited_results (f : Feed Bool) : (s.sendWaited f).results = s.results := rfl
@[simp] theorem State.sendWaited_program (f : Feed Bool) : (s.sendWaited f).program = s.program := rfl
@[simp] theorem State.sendWaited_tx (f : Feed Bool) : (s.sendWaited f).tx = f := rfl
@[simp] theorem State.sendWaited_rx (f : Feed Bool) : (s.sendWaited f).rx = s.rx := rfl

/-! ### sentByte -/

@[simp] theorem State.sentByte_params (b : Byte) (f : Feed Bool) : (s.sentByte b f).params = s.params := rfl
@[simp] theorem State.sentByte_pos (b : Byte) (f : Feed Bool) : (s.sentByte b f).pos = s.pos := rfl
@[simp] theorem State.sentByte_busy (b : Byte) (f : Feed Bool) : (s.sentByte b f).busy = s.busy := rfl
@[simp] theorem State.sentByte_opk (b : Byte) (f : Feed Bool) : (s.sentByte b f).opk = s.opk := rfl
@[simp] theorem State.sentByte_lch (b : Byte) (f : Feed Bool) : (s.sentByte b f).lch = s.lch := rfl
@[simp] theorem State.sentByte_lpos (b : Byte) (f : Feed Bool) : (s.sentByte b f).lpos = s.lpos := rfl
@[simp] theorem State.sentByte_lspd (b : Byte) (f : Feed Bool) : (s.sentByte b f).lspd = s.lspd := rfl
@[simp] theorem State.sentByte_txi (b : Byte) (f : Feed Bool) : (s.sentByte b f).txi = s.txi + 1 := rfl
@[simp] theorem State.sentByte_rxi (b : Byte) (f : Feed Bool) : (s.sentByte b f).rxi = s.rxi := rfl
@[simp] theorem State.sentByte_rb0 (b : Byte) (f : Feed Bool) : (s.sentByte b f).rb0 = s.rb0 := rfl
@[simp] theorem State.sentByte_rb1 (b : Byte) (f : Feed Bool) : (s.sentByte b f).rb1 = s.rb1 := rfl
@[simp] theorem State.sentByte_txHist (b : Byte) (f : Feed Bool) : (s.sentByte b f).txHist = s.txHist ++ [b] := rfl
@[simp] theorem State.sentByte_results (b : Byte) (f : Feed Bool) : (s.sentByte b f).results = s.results := rfl
@[simp] theorem State.sentByte_program (b : Byte) (f : Feed Bool) : (s.sentByte b f).program = s.program := rfl
@[simp] theorem State.sentByte_tx (b : Byte) (f : Feed Bool) : (s.sentByte b f).tx = f := rfl
@[simp] theorem State.sentByte_rx (b : Byte) (f : Feed Bool) : (s.sentByte b f).rx = s.rx := rfl

/-! ### sentLast -/

@[simp] theorem State.sentLast_params (b : Byte) (f : Feed Bool) : (s.sentLast b f).params = s.params := rfl
@[simp] theorem State.sentLast_pos (b : Byte) (f : Feed Bool) : (s.sentLast b f).pos = s.pos := rfl
@[simp] theorem State.sentLast_busy (b : Byte) (f : Feed Bool) : (s.sentLast b f).busy = false := rfl
@[simp] theorem State.sentLast_opk (b : Byte) (f : Feed Bool) : (s.sentLast b f).opk = s.opk := rfl
@[simp] theorem State.sentLast_lch (b : Byte) (f : Feed Bool) : (s.sentLast b f).lch = s.lch := rfl
@[simp] theorem State.sentLast_lpos (b : Byte) (f : Feed Bool) : (s.sentLast b f).lpos = s.lpos := rfl
@[simp] theorem State.sentLast_lspd (b : Byte) (f : Feed Bool) : (s.sentLast b f).lspd = s.lspd := rfl
@[simp] theorem State.sentLast_txi (b : Byte) (f : Feed Bool) : (s.sentLast b f).txi = 0 := rfl
@[simp] theorem State.sentLast_rxi (b : Byte) (f : Feed Bool) : (s.sentLast b f).rxi = s.rxi := rfl
@[simp] theorem State.sentLast_rb0 (b : Byte) (f : Feed Bool) : (s.sentLast b f).rb0 = s.rb0 := rfl
@[simp] theorem State.sentLast_rb1 (b : Byte) (f : Feed Bool) : (s.sentLast b f).rb1 = s.rb1 := rfl
@[simp] theorem State.sentLast_txHist (b : Byte) (f : Feed Bool) : (s.sentLast b f).txHist = s.txHist ++ [b] := rfl
@[simp] theorem State.sentLast_results (b : Byte) (f : Feed Bool) : (s.sentLast b f).results = s.results := rfl
@[simp] theorem State.sentLast_program (b : Byte) (f : Feed Bool) : (s.sentLast b f).program = s.program := rfl
@[simp] theorem State.sentLast_tx (b : Byte) (f : Feed Bool) : (s.sentLast b f).tx = f := rfl
@[simp] theorem State.sentLast_rx (b : Byte) (f : Feed Bool) : (s.sentLast b f).rx = s.rx := rfl

/-! ### recvWaited -/

@[simp] theorem State.recvWaited_params (f : Feed (Option Byte)) : (s.recvWaited f).params = s.params := rfl
@[simp] theorem State.recvWaited_pos (f : Feed (Option Byte)) : (s.recvWaited f).pos = s.pos := rfl
@[simp] theorem State.recvWaited_busy (f : Feed (Option Byte)) : (s.recvWaited f).busy = s.busy := rfl
@[simp] theorem State.recvWaited_opk (f : Feed (Option Byte)) : (s.recvWaited f).opk = s.opk := rfl
@[simp] theorem State.recvWaited_lch (f : Feed (Option Byte)) : (s.recvWaited f).lch = s.lch := rfl
@[simp] theorem State.recvWaited_lpos (f : Feed (Option Byte)) : (s.recvWaited f).lpos = s.lpos := rfl
@[simp] theorem State.recvWaited_lspd (f : Feed (Option Byte)) : (s.recvWaited f).lspd = s.lspd := rfl
@[simp] theorem State.recvWaited_txi (f : Feed (Option Byte)) : (s.recvWaited f).txi = s.txi := rfl
@[simp] theorem State.recvWaited_rxi (f : Feed (Option Byte)) : (s.recvWaited f).rxi = s.rxi := rfl
@[simp] theorem State.recvWaited_rb0 (f : Feed (Option Byte)) : (s.recvWaited f).rb0 = s.rb0 := rfl
@[simp] theorem State.recvWaited_rb1 (f : Feed (Option Byte)) : (s.recvWaited f).rb1 = s.rb1 := rfl
@[simp] theorem State.recvWaited_txHist (f : Feed (Option Byte)) : (s.recvWaited f).txHist = s.txHist := rfl
@[simp] theorem State.recvWaited_results (f : Feed (Option Byte)) : (s.recvWaited f).results = s.results := rfl
@[simp] theorem State.recvWaited_program (f : Feed (Option Byte)) : (s.recvWaited f).program = s.program := rfl
@[simp] theorem State.recvWaited_tx (f : Feed (Option Byte)) : (s.recvWaited f).tx = s.tx := rfl
@[simp] theorem State.recvWaited_rx (f : Feed (Option Byte)) : (s.recvWaited f).rx = f := rfl

/-! ### tookFirst -/

@[simp] theorem State.tookFirst_params (b : Byte) (f : Feed (Option Byte)) : (s.tookFirst b f).params = s.params := rfl
@[simp] theorem State.tookFirst_pos (b : Byte) (f : Feed (Option Byte)) : (s.tookFirst b f).pos = s.pos := rfl
@[simp] theorem State.tookFirst_busy (b : Byte) (f : Feed (Option Byte)) : (s.tookFirst b f).busy = s.busy := rfl
@[simp] theorem State.tookFirst_opk (b : Byte) (f : Feed (Option Byte)) : (s.tookFirst b f).opk = s.opk := rfl
@[simp] theorem State.tookFirst_lch (b : Byte) (f : Feed (Option Byte)) : (s.tookFirst b f).lch = s.lch := rfl
@[simp] theorem State.tookFirst_lpos (b : Byte) (f : Feed (Option Byte)) : (s.tookFirst b f).lpos = s.lpos := rfl
@[simp] theorem State.tookFirst_lspd (b : Byte) (f : Feed (Option Byte)) : (s.tookFirst b f).lspd = s.lspd := rfl
@[simp] theorem State.tookFirst_txi (b : Byte) (f : Feed (Option Byte)) : (s.tookFirst b f).txi = s.txi := rfl
@[simp] theorem State.tookFirst_rxi (b : Byte) (f : Feed (Option Byte)) : (s.tookFirst b f).rxi = 1 := rfl
@[simp] theorem State.tookFirst_rb0 (b : Byte) (f : Feed (Option Byte)) : (s.tookFirst b f).rb0 = b := rfl
@[simp] theorem State.tookFirst_rb1 (b : Byte) (f : Feed (Option Byte)) : (s.tookFirst b f).rb1 = s.rb1 := rfl
@[simp] theorem State.tookFirst_txHist (b : Byte) (f : Feed (Option Byte)) : (s.tookFirst b f).txHist = s.txHist := rfl
@[simp] theorem State.tookFirst_results (b : Byte) (f : Feed (Option Byte)) : (s.tookFirst b f).results = s.results := rfl
@[simp] theorem State.tookFirst_program (b : Byte) (f : Feed (Option Byte)) : (s.tookFirst b f).program = s.program := rfl
@[simp] theorem State.tookFirst_tx (b : Byte) (f : Feed (Option Byte)) : (s.tookFirst b f).tx = s.tx := rfl
@[simp] theorem State.tookFirst_rx (b : Byte) (f : Feed (Option Byte)) : (s.tookFirst b f).rx = f := rfl

/-! ### tookSecond -/

@[simp] theorem State.tookSecond_params (b : Byte) (f : Feed (Option Byte)) : (s.tookSecond b f).params = s.params := rfl
@[simp] theorem State.tookSecond_pos (b : Byte) (f : Feed (Option Byte)) : (s.tookSecond b f).pos = s.pos := rfl
@[simp] theorem State.tookSecond_busy (b : Byte) (f : Feed (Option Byte)) : (s.tookSecond b f).busy = s.busy := rfl
@[simp] theorem State.tookSecond_opk (b : Byte) (f : Feed (Option Byte)) : (s.tookSecond b f).opk = s.opk := rfl
@[simp] theorem State.tookSecond_lch (b : Byte) (f : Feed (Option Byte)) : (s.tookSecond b f).lch = s.lch := rfl
@[simp] theorem State.tookSecond_lpos (b : Byte) (f : Feed (Option Byte)) : (s.tookSecond b f).lpos = s.lpos := rfl
@[simp] theorem State.tookSecond_lspd (b : Byte) (f : Feed (Option Byte)) : (s.tookSecond b f).lspd = s.lspd := rfl
@[simp] theorem State.tookSecond_txi (b : Byte) (f : Feed (Option Byte)) : (s.tookSecond b f).txi = s.txi := rfl
@[simp] theorem State.tookSecond_rxi (b : Byte) (f : Feed (Option Byte)) : (s.tookSecond b f).rxi = 2 := rfl
@[simp] theorem State.tookSecond_rb0 (b : Byte) (f : Feed (Option Byte)) : (s.tookSecond b f).rb0 = s.rb0 := rfl
@[simp] theorem State.tookSecond_rb1 (b : Byte) (f : Feed (Option Byte)) : (s.tookSecond b f).rb1 = b := rfl
@[simp] theorem State.tookSecond_txHist (b : Byte) (f : Feed (Option Byte)) : (s.tookSecond b f).txHist = s.txHist := rfl
@[simp] theorem State.tookSecond_results (b : Byte) (f : Feed (Option Byte)) : (s.tookSecond b f).results = s.results := rfl
@[simp] theorem State.tookSecond_program (b : Byte) (f : Feed (Option Byte)) : (s.tookSecond b f).program = s.program := rfl
@[simp] theorem State.tookSecond_tx (b : Byte) (f : Feed (Option Byte)) : (s.tookSecond b f).tx = s.tx := rfl
@[simp] theorem State.tookSecond_rx (b : Byte) (f : Feed (Option Byte)) : (s.tookSecond b f).rx = f := rfl

/-! ### tookThird -/

@[simp] theorem State.tookThird_params (r : FbResult) (f : Feed (Option Byte)) : (s.tookThird r f).params = s.params := rfl
@[simp] theorem State.tookThird_pos (r : FbResult) (f : Feed (Option Byte)) : (s.tookThird r f).pos = s.pos := rfl
@[simp] theorem State.tookThird_busy (r : FbResult) (f : Feed (Option Byte)) : (s.tookThird r f).busy = false := rfl
@[simp] theorem State.tookThird_opk (r : FbResult) (f : Feed (Option Byte)) : (s.tookThird r f).opk = s.opk := rfl
@[simp] theorem State.tookThird_lch (r : FbResult) (f : Feed (Option Byte)) : (s.tookThird r f).lch = s.lch := rfl
@[simp] theorem State.tookThird_lpos (r : FbResult) (f : Feed (Option Byte)) : (s.tookThird r f).lpos = s.lpos := rfl
@[simp] theorem State.tookThird_lspd (r : FbResult) (f : Feed (Option Byte)) : (s.tookThird r f).lspd = s.lspd := rfl
@[simp] theorem State.tookThird_txi (r : FbResult) (f : Feed (Option Byte)) : (s.tookThird r f).txi = s.txi := rfl
@[simp] theorem State.tookThird_rxi (r : FbResult) (f : Feed (Option Byte)) : (s.tookThird r f).rxi = 0 := rfl
@[simp] theorem State.tookThird_rb0 (r : FbResult) (f : Feed (Option Byte)) : (s.tookThird r f).rb0 = s.rb0 := rfl
@[simp] theorem State.tookThird_rb1 (r : FbResult) (f : Feed (Option Byte)) : (s.tookThird r f).rb1 = s.rb1 := rfl
@[simp] theorem State.tookThird_txHist (r : FbResult) (f : Feed (Option Byte)) : (s.tookThird r f).txHist = s.txHist := rfl
@[simp] theorem State.tookThird_results (r : FbResult) (f : Feed (Option Byte)) : (s.tookThird r f).results = s.results ++ [r] := rfl
@[simp] theorem State.tookThird_program (r : FbResult) (f : Feed (Option Byte)) : (s.tookThird r f).program = s.program := rfl
@[simp] theorem State.tookThird_tx (r : FbResult) (f : Feed (Option Byte)) : (s.tookThird r f).tx = s.tx := rfl
@[simp] theorem State.tookThird_rx (r : FbResult) (f : Feed (Option Byte)) : (s.tookThird r f).rx = f := rfl

/-! ### withProgram -/

@[simp] theorem State.withProgram_params (p : List HostOp) : (s.withProgram p).params = s.params := rfl
@[simp] theorem State.withProgram_pos (p : List HostOp) : (s.withProgram p).pos = s.pos := rfl
@[simp] theorem State.withProgram_busy (p : List HostOp) : (s.withProgram p).busy = s.busy := rfl
@[simp] theorem State.withProgram_opk (p : List HostOp) : (s.withProgram p).opk = s.opk := rfl
@[simp] theorem State.withProgram_lch (p : List HostOp) : (s.withProgram p).lch = s.lch := rfl
@[simp] theorem State.withProgram_lpos (p : List HostOp) : (s.withProgram p).lpos = s.lpos := rfl
@[simp] theorem State.withProgram_lspd (p : List HostOp) : (s.withProgram p).lspd = s.lspd := rfl
@[simp] theorem State.withProgram_txi (p : List HostOp) : (s.withProgram p).txi = s.txi := rfl
@[simp] theorem State.withProgram_rxi (p : List HostOp) : (s.withProgram p).rxi = s.rxi := rfl
@[simp] theorem State.withProgram_rb0 (p : List HostOp) : (s.withProgram p).rb0 = s.rb0 := rfl
@[simp] theorem State.withProgram_rb1 (p : List HostOp) : (s.withProgram p).rb1 = s.rb1 := rfl
@[simp] theorem State.withProgram_txHist (p : List HostOp) : (s.withProgram p).txHist = s.txHist := rfl
@[simp] theorem State.withProgram_results (p : List HostOp) : (s.withProgram p).results = s.results := rfl
@[simp] theorem State.withProgram_program (p : List HostOp) : (s.withProgram p).program = p := rfl
@[simp] theorem State.withProgram_tx (p : List HostOp) : (s.withProgram p).tx = s.tx := rfl
@[simp] theorem State.withProgram_rx (p : List HostOp) : (s.withProgram p).rx = s.rx := rfl

/-! ### idled -/

@[simp] theorem State.idled_params : s.idled.params = s.params := rfl
@[simp] theorem State.idled_pos : s.idled.pos = s.pos := rfl
@[simp] theorem State.idled_busy : s.idled.busy = false := rfl
@[simp] theorem State.idled_opk : s.idled.opk = s.opk := rfl
@[simp] theorem State.idled_lch : s.idled.lch = s.lch := rfl
@[simp] theorem State.idled_lpos : s.idled.lpos = s.lpos := rfl
@[simp] theorem State.idled_lspd : s.idled.lspd = s.lspd := rfl
@[simp] theorem State.idled_txi : s.idled.txi = 0 := rfl
@[simp] theorem State.idled_rxi : s.idled.rxi = 0 := rfl
@[simp] theorem State.idled_rb0 : s.idled.rb0 = s.rb0 := rfl
@[simp] theorem State.idled_rb1 : s.idled.rb1 = s.rb1 := rfl
@[simp] theorem State.idled_txHist : s.idled.txHist = s.txHist := rfl
@[simp] theorem State.idled_results : s.idled.results = s.results := rfl
@[simp] theorem State.idled_program : s.idled.program = s.program := rfl
@[simp] theorem State.idled_tx : s.idled.tx = s.tx := rfl
@[simp] theorem State.idled_rx : s.idled.rx = s.rx := rfl

/-! ### supplied -/

@[simp] theorem State.supplied_params (bs : List Byte) : (s.supplied bs).params = s.params := rfl
@[simp] theorem State.supplied_pos (bs : List Byte) : (s.supplied bs).pos = s.pos := rfl
@[simp] theorem State.supplied_busy (bs : List Byte) : (s.supplied bs).busy = s.busy := rfl
@[simp] theorem State.supplied_opk (bs : List Byte) : (s.supplied bs).opk = s.opk := rfl
@[simp] theorem State.supplied_lch (bs : List Byte) : (s.supplied bs).lch = s.lch := rfl
@[simp] theorem State.supplied_lpos (bs : List Byte) : (s.supplied bs).lpos = s.lpos := rfl
@[simp] theorem State.supplied_lspd (bs : List Byte) : (s.supplied bs).lspd = s.lspd := rfl
@[simp] theorem State.supplied_txi (bs : List Byte) : (s.supplied bs).txi = s.txi := rfl
@[simp] theorem State.supplied_rxi (bs : List Byte) : (s.supplied bs).rxi = s.rxi := rfl
@[simp] theorem State.supplied_rb0 (bs : List Byte) : (s.supplied bs).rb0 = s.rb0 := rfl
@[simp] theorem State.supplied_rb1 (bs : List Byte) : (s.supplied bs).rb1 = s.rb1 := rfl
@[simp] theorem State.supplied_txHist (bs : List Byte) : (s.supplied bs).txHist = s.txHist := rfl
@[simp] theorem State.supplied_results (bs : List Byte) : (s.supplied bs).results = s.results := rfl
@[simp] theorem State.supplied_program (bs : List Byte) : (s.supplied bs).program = s.program := rfl
@[simp] theorem State.supplied_tx (bs : List Byte) : (s.supplied bs).tx = s.tx := rfl
@[simp] theorem State.supplied_rx (bs : List Byte) : (s.supplied bs).rx = { s.rx with now := bs.map some ++ s.rx.now } := rfl

end Sys2Proof.Machine
end

