-- ==== Sys2Proof/Laws/Ops.lean ====
section
/-! SUPPORT. Once for each shared operation: everything it can do. -/

namespace Sys2Proof.Machine

/-! ### The position table -/

theorem writeEntry_of_lt {s : State} {i : Nat} (h : i < s.pos.length) (v : Word) :
    writeEntry s i v = some { s with pos := s.pos.set i v } := if_pos h

theorem writeEntry_eq_some {s t : State} {i : Nat} {v : Word} :
    writeEntry s i v = some t ↔ i < s.pos.length ∧ t = { s with pos := s.pos.set i v } := by
  unfold writeEntry
  split <;> simp_all [eq_comm]

/-- A read after a write: the value written at its index, the old value elsewhere. -/
theorem readEntry_set {s : State} {i j : Nat} {v : Word} (h : i < s.pos.length) :
    readEntry { s with pos := s.pos.set i v } j = if i = j then some v else readEntry s j := by
  simp only [readEntry, List.getElem?_set, h, if_true]

theorem readEntry_eq_of_pos {s t : State} (h : t.pos = s.pos) (i : Nat) :
    readEntry t i = readEntry s i := by simp [readEntry, h]

theorem readEntry_isSome {s : State} {i : Nat} (h : i < s.pos.length) :
    ∃ v, readEntry s i = some v := ⟨s.pos[i], by simp [readEntry, h]⟩

/-- A write keeps the table's size. -/
theorem writeEntry_length {s t : State} {i : Nat} {v : Word} (h : writeEntry s i v = some t) :
    t.pos.length = s.pos.length := by
  rw [(writeEntry_eq_some.mp h).2]; simp

/-! ### The environment's answers -/

section Feed
variable {α : Type} (free : Nat → α)

theorem Feed.next_cons (a : α) (rest : List α) (t : FeedTail α) :
    Feed.next free ⟨a :: rest, t⟩ = (some a, ⟨rest, t⟩) := rfl

theorem Feed.next_again_nil : Feed.next free ⟨[], .again []⟩ = (none, ⟨[], .again []⟩) := rfl

theorem Feed.next_again_cons (a : α) (rest : List α) :
    Feed.next free ⟨[], .again (a :: rest)⟩ = (some a, ⟨rest, .again (a :: rest)⟩) := rfl

theorem Feed.next_oracle (k : Nat) :
    Feed.next free ⟨[], .oracle k⟩ = (some (free k), ⟨[], .oracle (k + 1)⟩) := rfl

/-- A feed whose coming answer is listed answers it. -/
theorem Feed.next_of_now {f : Feed α} {a : α} {rest : List α} (h : f.now = a :: rest) :
    f.next free = (some a, { f with now := rest }) := by
  obtain ⟨now, tail⟩ := f
  subst h; rfl

end Feed

/-! ### Answers that never serve -/

section NeverServes

variable {α : Type} {free : Nat → α} {serves : α → Bool} {f : Feed α}

@[simp] theorem Feed.after_zero : f.after free 0 = f := rfl

@[simp] theorem Feed.after_succ (k : Nat) : f.after free (k + 1) = (f.next free).2.after free k := rfl

/-- A feed never serves exactly if its next answer does not and it never serves after that. -/
theorem Feed.neverServes_iff_next :
    f.neverServes free serves ↔ (∀ a, (f.next free).1 = some a → serves a = false) ∧
      (f.next free).2.neverServes free serves :=
  ⟨fun h => ⟨h 0, fun k => h (k + 1)⟩, fun h k => match k with
    | 0 => h.1
    | k + 1 => h.2 k⟩

/-- A property under which an answer does not serve and which every answer keeps. -/
theorem Feed.neverServes_of_invariant (Inv : Feed α → Prop)
    (none_serves : ∀ g a, Inv g → (g.next free).1 = some a → serves a = false)
    (keep : ∀ g, Inv g → Inv (g.next free).2) (h : Inv f) : f.neverServes free serves := by
  intro k
  induction k generalizing f with
  | zero => exact fun a => none_serves f a h
  | succ k ih => exact ih (keep f h)

/-- Listed answers, and answers that repeat, never serve if none of them does. -/
theorem Feed.neverServes_again {now answers : List α} (hn : ∀ a ∈ now, serves a = false)
    (ha : ∀ a ∈ answers, serves a = false) :
    Feed.neverServes free serves { now := now, tail := .again answers } := by
  refine neverServes_of_invariant
    (fun g => (∀ a ∈ g.now, serves a = false) ∧ g.tail = .again answers) ?_ ?_ ⟨hn, rfl⟩
  · rintro ⟨_ | ⟨b, more⟩, t⟩ a ⟨hg, rfl⟩ h
    · rcases answers with _ | ⟨c, answers⟩ <;> simp_all [Feed.next]
    · cases h
      exact hg _ (List.mem_cons_self ..)
  · rintro ⟨_ | ⟨b, more⟩, t⟩ ⟨hg, rfl⟩
    · rcases answers with _ | ⟨c, answers⟩ <;> simp_all [Feed.next]
    · exact ⟨fun a h => hg a (List.mem_cons_of_mem _ h), rfl⟩

/-- A feed that goes on serving goes on serving after its next answer. -/
theorem Feed.servesForever_next (h : f.servesForever free serves) :
    (f.next free).2.servesForever free serves := fun k => h (k + 1)

theorem Feed.servesForever_after (h : f.servesForever free serves) (k : Nat) :
    (f.after free k).servesForever free serves := by
  induction k generalizing f with
  | zero => exact h
  | succ k ih => exact ih (servesForever_next h)

/-- If a feed never serves, none of its listed answers does, and it never serves once they are given. -/
theorem Feed.neverServes_now {now : List α} {t : FeedTail α}
    (h : Feed.neverServes free serves { now := now, tail := t }) :
    (∀ a ∈ now, serves a = false) ∧ Feed.neverServes free serves { now := [], tail := t } := by
  induction now with
  | nil => exact ⟨by simp, h⟩
  | cons b more ih =>
    obtain ⟨hb, hr⟩ := neverServes_iff_next.mp h
    obtain ⟨hm, ht⟩ := ih hr
    exact ⟨List.forall_mem_cons.mpr ⟨hb b rfl, hm⟩, ht⟩

/-- Answers that repeat go on serving if one of them serves. -/
theorem Feed.servesForever_again {now answers : List α} {a : α} (ha : a ∈ answers)
    (hs : serves a = true) : Feed.servesForever free serves { now := now, tail := .again answers } := by
  have serve : ∀ g : Feed α, g.tail = .again answers → ¬ g.neverServes free serves := by
    rintro ⟨now, t⟩ rfl h
    obtain ⟨b, more⟩ := List.exists_cons_of_ne_nil (List.ne_nil_of_mem ha)
    obtain ⟨more, rfl⟩ := more
    obtain ⟨hb, hr⟩ := neverServes_iff_next.mp (neverServes_now h).2
    have none_of_them : ∀ c ∈ b :: more, serves c = false :=
      List.forall_mem_cons.mpr ⟨hb b rfl, (neverServes_now hr).1⟩
    rw [none_of_them a ha] at hs; cases hs
  have keep : ∀ (k : Nat) (g : Feed α), g.tail = .again answers →
      (g.after free k).tail = .again answers := by
    intro k
    induction k with
    | zero => exact fun g h => h
    | succ k ih =>
      rintro ⟨_ | ⟨b, more⟩, t⟩ rfl
      · refine ih _ ?_
        rcases answers with _ | ⟨c, answers⟩ <;> rfl
      · exact ih _ rfl
  exact fun k => serve _ (keep k _ rfl)

/-- A feed that does not never serve, serves after some number of attempts that it does not serve. -/
theorem Feed.serves_after (h : ¬ f.neverServes free serves) :
    ∃ k a, ((f.after free k).next free).1 = some a ∧ serves a = true ∧
      ∀ j < k, ∀ b, ((f.after free j).next free).1 = some b → serves b = false := by
  classical
  have hex : ∃ k a, ((f.after free k).next free).1 = some a ∧ serves a = true := by
    simpa [Feed.neverServes] using h
  obtain ⟨a, ha, hs⟩ := Nat.find_spec hex
  refine ⟨Nat.find hex, a, ha, hs, fun j hj b hb => ?_⟩
  by_contra hne
  exact Nat.find_min hex hj ⟨b, hb, by simpa using hne⟩

end NeverServes

theorem txOffer_of_now {s : State} {a : Bool} {rest : List Bool} (h : s.tx.now = a :: rest) :
    txOffer s = (a, { s.tx with now := rest }) := by
  simp [txOffer, Feed.next_of_now _ h]

theorem rxOffer_of_now {s : State} {a : Option Byte} {rest : List (Option Byte)}
    (h : s.rx.now = a :: rest) : rxOffer s = (a, { s.rx with now := rest }) := by
  simp [rxOffer, Feed.next_of_now _ h]

/-! ### Sending -/

/-- All a send step can do (R101). -/
theorem sendStep_cases (frame : List Byte) (s : State) :
    (frame[s.txi.val]? = none ∧ sendStep frame s = .fault .noSuchByte) ∨
    ∃ b, frame[s.txi.val]? = some b ∧
      (((txOffer s).1 = false ∧ sendStep frame s = .next (s.sendWaited (txOffer s).2)) ∨
       ((txOffer s).1 = true ∧ s.txi.val + 1 < frame.length ∧
          sendStep frame s = .next (s.sentByte b (txOffer s).2)) ∨
       ((txOffer s).1 = true ∧ frame.length ≤ s.txi.val + 1 ∧
          sendStep frame s = .next (s.sentLast b (txOffer s).2))) := by
  unfold sendStep
  cases hb : frame[s.txi.val]? with
  | none => exact .inl ⟨rfl, rfl⟩
  | some b =>
    refine .inr ⟨b, rfl, ?_⟩
    obtain ⟨acc, f⟩ := txOffer s
    cases acc with
    | false => exact .inl ⟨rfl, rfl⟩
    | true =>
      rcases Nat.lt_or_ge (s.txi.val + 1) frame.length with h | h
      · exact .inr (.inl ⟨rfl, h, by simp [h]⟩)
      · exact .inr (.inr ⟨rfl, h, by simp [Nat.not_lt.mpr h]⟩)

/-! ### Receiving -/

/-- All the third byte can do (R114). -/
theorem finishFeedback_cases (b : Byte) (f : Feed (Option Byte)) (s : State) :
    (s.pos.length ≤ (decodeFeedback s.params.rxMask s.rb0 s.rb1 b).rch.toNat ∧
      finishFeedback b f s = .fault .noSuchEntry) ∨
    ((decodeFeedback s.params.rxMask s.rb0 s.rb1 b).rch.toNat < s.pos.length ∧
      finishFeedback b f s = .next
        (State.tookThird
          { s with pos := s.pos.set (decodeFeedback s.params.rxMask s.rb0 s.rb1 b).rch.toNat
                     (entryOf (decodeFeedback s.params.rxMask s.rb0 s.rb1 b).rpos) }
          (decodeFeedback s.params.rxMask s.rb0 s.rb1 b) f)) := by
  unfold finishFeedback writeEntry
  rcases Nat.lt_or_ge (decodeFeedback s.params.rxMask s.rb0 s.rb1 b).rch.toNat s.pos.length with h | h
  · exact .inr ⟨h, by simp [h]⟩
  · exact .inl ⟨h, by simp [Nat.not_lt.mpr h]⟩

/-- All a receive step can do (R118). -/
theorem recvStep_cases (s : State) :
    ((rxOffer s).1 = none ∧ recvStep s = .next (s.recvWaited (rxOffer s).2)) ∨
    ∃ b, (rxOffer s).1 = some b ∧
      ((s.rxi = 0 ∧ recvStep s = .next (s.tookFirst b (rxOffer s).2)) ∨
       (s.rxi = 1 ∧ recvStep s = .next (s.tookSecond b (rxOffer s).2)) ∨
       (s.rxi = 2 ∧ recvStep s = finishFeedback b (rxOffer s).2 s)) := by
  unfold recvStep
  obtain ⟨o, f⟩ := rxOffer s
  cases o with
  | none => exact .inl ⟨rfl, rfl⟩
  | some b =>
    refine .inr ⟨b, rfl, ?_⟩
    generalize s.rxi = k
    match k with
    | 0 => exact .inl ⟨rfl, rfl⟩
    | 1 => exact .inr (.inl ⟨rfl, rfl⟩)
    | 2 => exact .inr (.inr ⟨rfl, rfl⟩)

/-! ### A primitive -/

theorem runPrimitive_idle {i : Instr} {issued s : State} {advance : State → Result}
    (h : s.busy = false) : runPrimitive i issued advance s = .next issued := by
  simp [runPrimitive, h]

theorem runPrimitive_resume {i : Instr} {issued s : State} {advance : State → Result}
    (h : s.busy = true) (hi : s.inProgress = i) : runPrimitive i issued advance s = advance s := by
  simp [runPrimitive, h, hi]

theorem runPrimitive_other {i : Instr} {issued s : State} {advance : State → Result}
    (h : s.busy = true) (hi : s.inProgress ≠ i) :
    runPrimitive i issued advance s = .refused .issueWhileBusy := by
  simp [runPrimitive, h, hi]

/-- Where a primitive answers a next state, it was issued or advanced. -/
theorem runPrimitive_next {i : Instr} {issued s t : State} {advance : State → Result}
    (h : runPrimitive i issued advance s = .next t) :
    (s.busy = false ∧ t = issued) ∨ (s.busy = true ∧ s.inProgress = i ∧ advance s = .next t) := by
  cases hb : s.busy with
  | false =>
    rw [runPrimitive_idle hb] at h
    exact .inl ⟨rfl, by cases h; rfl⟩
  | true =>
    by_cases hi : s.inProgress = i
    · rw [runPrimitive_resume hb hi] at h
      exact .inr ⟨rfl, hi, h⟩
    · rw [runPrimitive_other hb hi] at h
      cases h

end Sys2Proof.Machine
end

