-- ==== Sys2Proof/Laws/Exec.lean ====
section
/-! SUPPORT. What exec can answer, operation by operation. -/

namespace Sys2Proof.Machine

/-- What one accepted or refused byte of a send leaves: the next states of a send step. -/
def SendNext (frame : List Byte) (s t : State) : Prop :=
  ∃ b, frame[s.txi.val]? = some b ∧
    (((txOffer s).1 = false ∧ t = s.sendWaited (txOffer s).2) ∨
     ((txOffer s).1 = true ∧ s.txi.val + 1 < frame.length ∧ t = s.sentByte b (txOffer s).2) ∨
     ((txOffer s).1 = true ∧ frame.length ≤ s.txi.val + 1 ∧ t = s.sentLast b (txOffer s).2))

/-- The next states of a receive step. -/
def RecvNext (s t : State) : Prop :=
  ((rxOffer s).1 = none ∧ t = s.recvWaited (rxOffer s).2) ∨
  ∃ b, (rxOffer s).1 = some b ∧
    ((s.rxi = 0 ∧ t = s.tookFirst b (rxOffer s).2) ∨
     (s.rxi = 1 ∧ t = s.tookSecond b (rxOffer s).2) ∨
     (s.rxi = 2 ∧ (decodeFeedback s.params.rxMask s.rb0 s.rb1 b).rch.toNat < s.pos.length ∧
      t = State.tookThird
          { s with pos := s.pos.set (decodeFeedback s.params.rxMask s.rb0 s.rb1 b).rch.toNat
                     (entryOf (decodeFeedback s.params.rxMask s.rb0 s.rb1 b).rpos) }
          (decodeFeedback s.params.rxMask s.rb0 s.rb1 b) (rxOffer s).2))

theorem sendStep_next {frame : List Byte} {s t : State} :
    sendStep frame s = .next t ↔ SendNext frame s t := by
  unfold SendNext
  rcases sendStep_cases frame s with ⟨h, e⟩ | ⟨b, h, ⟨ha, e⟩ | ⟨ha, hl, e⟩ | ⟨ha, hl, e⟩⟩
  · simp [h, e]
  · simp [h, e, ha, eq_comm]
  · simp [h, e, ha, hl, Nat.not_le.mpr hl, eq_comm]
  · simp [h, e, ha, hl, Nat.not_lt.mpr hl, eq_comm]

theorem recvStep_next {s t : State} : recvStep s = .next t ↔ RecvNext s t := by
  unfold RecvNext
  rcases recvStep_cases s with ⟨h, e⟩ | ⟨b, h, ⟨hr, e⟩ | ⟨hr, e⟩ | ⟨hr, e⟩⟩
  · simp [h, e, eq_comm]
  · simp [h, e, hr, eq_comm]
  · simp [h, e, hr, eq_comm]
  · rcases finishFeedback_cases b (rxOffer s).2 s with ⟨hl, e'⟩ | ⟨hl, e'⟩
    · simp [h, e, e', hr, Nat.not_lt.mpr hl]
    · simp [h, e, e', hr, hl, eq_comm]

/-- What a send step leaves alone, whatever the transport answered. -/
theorem SendNext.rest {frame : List Byte} {s t : State} (h : SendNext frame s t) :
    t.params = s.params ∧ t.pos = s.pos ∧ t.opk = s.opk ∧ t.lch = s.lch ∧ t.lpos = s.lpos ∧
    t.lspd = s.lspd ∧ t.rxi = s.rxi ∧ t.rb0 = s.rb0 ∧ t.rb1 = s.rb1 ∧ t.results = s.results ∧
    t.program = s.program ∧ t.rx = s.rx ∧ t.tx = (txOffer s).2 ∧
    (t.txHist = s.txHist ∨ ∃ b ∈ frame, t.txHist = s.txHist ++ [b]) := by
  obtain ⟨b, hb, ⟨-, rfl⟩ | ⟨-, -, rfl⟩ | ⟨-, -, rfl⟩⟩ := h
  · simp
  all_goals
    have := List.mem_of_getElem? hb
    simp [this]

/-- What a receive step leaves alone, whatever the environment answered. -/
theorem RecvNext.rest {s t : State} (h : RecvNext s t) :
    t.params = s.params ∧ t.opk = s.opk ∧ t.lch = s.lch ∧ t.lpos = s.lpos ∧ t.lspd = s.lspd ∧
    t.txi = s.txi ∧ t.txHist = s.txHist ∧ t.program = s.program ∧ t.tx = s.tx ∧
    t.rx = (rxOffer s).2 ∧ t.pos.length = s.pos.length := by
  rcases h with ⟨-, rfl⟩ | ⟨b, -, ⟨-, rfl⟩ | ⟨-, rfl⟩ | ⟨-, -, rfl⟩⟩ <;> simp

/-! ### MOVE -/

theorem exec_move_idle {s : State} (h : s.busy = false) (ch : Byte) (pos : Word) (spd : Byte) :
    exec (.move ch pos spd) s = .next (s.issueMove ch pos spd) := runPrimitive_idle h

theorem exec_move_resume {s : State} (h : s.busy = true) (ho : s.opk = .move) :
    exec (.move s.lch s.lpos s.lspd) s = sendStep (encodeMove s.lch s.lpos s.lspd) s :=
  runPrimitive_resume h (by simp [State.inProgress, ho])

/-! ### FBREQ -/

theorem exec_fbreq_idle {s : State} (h : s.busy = false) (ch : Byte) :
    exec (.fbreq ch) s = .next (s.issueFbreq ch) := runPrimitive_idle h

theorem exec_fbreq_resume {s : State} (h : s.busy = true) (ho : s.opk = .fbreq) :
    exec (.fbreq s.lch) s = sendStep (encodeFbReq s.lch) s :=
  runPrimitive_resume h (by simp [State.inProgress, ho])

/-! ### FBRECV -/

theorem exec_fbrecv_idle {s : State} (h : s.busy = false) :
    exec .fbrecv s = .next s.issueFbrecv := runPrimitive_idle h

theorem exec_fbrecv_resume {s : State} (h : s.busy = true) (ho : s.opk = .fbrecv) :
    exec .fbrecv s = recvStep s :=
  runPrimitive_resume h (by simp [State.inProgress, ho])

/-! ### The operation in progress -/

/-- The frame a send in progress sends (R101). -/
def State.frame (s : State) : List Byte :=
  match s.opk with
  | .move => encodeMove s.lch s.lpos s.lspd
  | .fbreq => encodeFbReq s.lch
  | .fbrecv => []

/-- Executing the operation in progress is one send step or one receive step. -/
theorem exec_inProgress {s : State} (h : s.busy = true) :
    exec s.inProgress s = if s.opk = .fbrecv then recvStep s else sendStep s.frame s := by
  cases ho : s.opk with
  | move =>
    have e : s.inProgress = .move s.lch s.lpos s.lspd := by simp [State.inProgress, ho]
    rw [e, exec_move_resume h ho]; simp [State.frame, ho]
  | fbreq =>
    have e : s.inProgress = .fbreq s.lch := by simp [State.inProgress, ho]
    rw [e, exec_fbreq_resume h ho]; simp [State.frame, ho]
  | fbrecv =>
    have e : s.inProgress = .fbrecv := by simp [State.inProgress, ho]
    rw [e, exec_fbrecv_resume h ho]; simp

/-- A primitive issued at an idle block. -/
def State.issued (s : State) : Instr → State
  | .move ch pos spd => s.issueMove ch pos spd
  | .fbreq ch => s.issueFbreq ch
  | .fbrecv => s.issueFbrecv

theorem exec_idle {s : State} (h : s.busy = false) (i : Instr) : exec i s = .next (s.issued i) := by
  cases i with
  | move ch pos spd => exact exec_move_idle h ch pos spd
  | fbreq ch => exact exec_fbreq_idle h ch
  | fbrecv => exact exec_fbrecv_idle h

/-- Where exec answers a next state it issued the operation, sent, or received. -/
theorem exec_next {i : Instr} {s t : State} (h : exec i s = .next t) :
    (s.busy = false ∧ t = s.issued i) ∨
    (s.busy = true ∧ s.inProgress = i ∧ s.opk ≠ .fbrecv ∧ SendNext s.frame s t) ∨
    (s.busy = true ∧ s.inProgress = i ∧ s.opk = .fbrecv ∧ RecvNext s t) := by
  cases hb : s.busy with
  | false =>
    rw [exec_idle hb] at h
    exact .inl ⟨rfl, by cases h; rfl⟩
  | true =>
    have hi : s.inProgress = i := by
      cases i <;> exact ((runPrimitive_next h).resolve_left (by simp [hb])).2.1
    subst hi
    rw [exec_inProgress hb] at h
    by_cases ho : s.opk = .fbrecv
    · rw [if_pos ho] at h
      exact .inr (.inr ⟨rfl, rfl, ho, recvStep_next.mp h⟩)
    · rw [if_neg ho] at h
      exact .inr (.inl ⟨rfl, rfl, ho, sendStep_next.mp h⟩)

end Sys2Proof.Machine
end

