-- ==== Sys2Proof/Laws/PerInstr.lean ====
section
/-! SUPPORT. Facts about every operation as syntax, one lemma per constructor. -/

namespace Sys2Proof.Laws

open Sys2Proof.Machine

/-- The length of a format in bytes (30_encoding.md R60, R71). -/
def formatLength : Instr → Nat
  | .move _ _ _ => 4
  | .fbreq _ => 2
  | .fbrecv => 3

/-! ### The frame has the length of its format -/

def FrameLength.Statement (i : Instr) : Prop := (encode i).length = formatLength i

theorem FrameLength.move (ch : Byte) (pos : Word) (spd : Byte) :
    FrameLength.Statement (.move ch pos spd) := rfl

theorem FrameLength.fbreq (ch : Byte) : FrameLength.Statement (.fbreq ch) := rfl

theorem FrameLength.fbrecv : FrameLength.Statement .fbrecv := rfl

/-! ### A truncated operation fits the wire -/

def TruncatedFits.Statement (i : Instr) : Prop := i.truncate.wellFormed = true

theorem chFits_and (ch : Byte) : chFits (ch &&& 0x3F#8) = true := by
  have : (ch &&& 0x3F#8).toNat ≤ 63 := by rw [BitVec.toNat_and]; exact Nat.and_le_right
  simp only [chFits, decide_eq_true_eq]; omega

theorem spdFits_and (spd : Byte) : spdFits (spd &&& 0x3F#8) = true := chFits_and spd

theorem posFits_and (pos : Word) : posFits (pos &&& 0x0FFF#16) = true := by
  have : (pos &&& 0x0FFF#16).toNat ≤ 4095 := by rw [BitVec.toNat_and]; exact Nat.and_le_right
  simp only [posFits, decide_eq_true_eq]; omega

theorem TruncatedFits.move (ch : Byte) (pos : Word) (spd : Byte) :
    TruncatedFits.Statement (.move ch pos spd) := by
  simp [TruncatedFits.Statement, Instr.truncate, Instr.wellFormed, chFits_and, posFits_and, spdFits_and]

theorem TruncatedFits.fbreq (ch : Byte) : TruncatedFits.Statement (.fbreq ch) := chFits_and ch

theorem TruncatedFits.fbrecv : TruncatedFits.Statement .fbrecv := rfl

end Sys2Proof.Laws
end

