-- ==== Sys2Proof/Laws/Step.lean ====
section
/-! SUPPORT. What one step can do, and how runs are put together. -/

namespace Sys2Proof.Machine

/-! ### One step, by what the machine does next -/

theorem step_of_busy {s : State} (h : s.busy = true) : step s = exec s.inProgress s := by
  simp [step, fetch, h]

theorem step_of_nil {s : State} (h : s.busy = false) (hp : s.program = []) : step s = .next s := by
  simp [step, fetch, h, hp]

theorem step_of_op {s : State} {i : Instr} {rest : List HostOp} (h : s.busy = false)
    (hp : s.program = .op i :: rest) : step s = exec i (s.withProgram rest) := by
  simp [step, fetch, h, hp]

theorem step_of_moveWait {s : State} {ch : Byte} {pos : Word} {spd : Byte} {rest : List HostOp}
    (h : s.busy = false) (hp : s.program = .moveWait ch pos spd :: rest) :
    step s = .next (s.withProgram (expandMoveWait ch pos spd rest)) := by
  simp [step, fetch, h, hp]

theorem step_of_poll {s : State} {ch : Byte} {pos : Word} {rest : List HostOp}
    (h : s.busy = false) (hp : s.program = .poll ch pos :: rest) :
    step s = pollTest ch pos rest s := by
  simp [step, fetch, h, hp]

/-- All MOVEWAIT's test can do (R131). -/
theorem pollTest_cases (ch : Byte) (pos : Word) (rest : List HostOp) (s : State) :
    (readEntry s (tableIndex s.params.rxMask ch) = none ∧
      pollTest ch pos rest s = .fault .noSuchEntry) ∨
    (readEntry s (tableIndex s.params.rxMask ch) = some pos ∧
      pollTest ch pos rest s = .next (s.withProgram rest)) ∨
    (∃ v, readEntry s (tableIndex s.params.rxMask ch) = some v ∧ v ≠ pos ∧
      pollTest ch pos rest s = .next (s.withProgram (expandRoundTrip ch pos rest))) := by
  unfold pollTest arrived
  cases hr : readEntry s (tableIndex s.params.rxMask ch) with
  | none => exact .inl ⟨rfl, rfl⟩
  | some v =>
    by_cases hv : v = pos
    · exact .inr (.inl ⟨by rw [hv], by simp [hv]⟩)
    · exact .inr (.inr ⟨v, rfl, hv, by simp [hv]⟩)

/-- Everything a step that answers a next state has done. -/
theorem step_next {s t : State} (h : step s = .next t) :
    (s.busy = true ∧ s.opk ≠ .fbrecv ∧ SendNext s.frame s t) ∨
    (s.busy = true ∧ s.opk = .fbrecv ∧ RecvNext s t) ∨
    (s.busy = false ∧ s.program = [] ∧ t = s) ∨
    (∃ i rest, s.busy = false ∧ s.program = .op i :: rest ∧ t = (s.withProgram rest).issued i) ∨
    (∃ ch pos spd rest, s.busy = false ∧ s.program = .moveWait ch pos spd :: rest ∧
      t = s.withProgram (expandMoveWait ch pos spd rest)) ∨
    (∃ ch pos rest, s.busy = false ∧ s.program = .poll ch pos :: rest ∧
      readEntry s (tableIndex s.params.rxMask ch) = some pos ∧ t = s.withProgram rest) ∨
    (∃ ch pos rest v, s.busy = false ∧ s.program = .poll ch pos :: rest ∧
      readEntry s (tableIndex s.params.rxMask ch) = some v ∧ v ≠ pos ∧
      t = s.withProgram (expandRoundTrip ch pos rest)) := by
  cases hb : s.busy with
  | true =>
    rw [step_of_busy hb] at h
    rcases exec_next h with ⟨hf, -⟩ | ⟨-, -, ho, hs⟩ | ⟨-, -, ho, hr⟩
    · rw [hb] at hf; cases hf
    · exact .inl ⟨rfl, ho, hs⟩
    · exact .inr (.inl ⟨rfl, ho, hr⟩)
  | false =>
    refine .inr (.inr ?_)
    match hp : s.program with
    | [] =>
      rw [step_of_nil hb hp] at h
      exact .inl ⟨rfl, rfl, by cases h; rfl⟩
    | .op i :: rest =>
      rw [step_of_op hb hp, exec_idle (by simpa using hb)] at h
      exact .inr (.inl ⟨i, rest, rfl, rfl, by cases h; rfl⟩)
    | .moveWait ch pos spd :: rest =>
      rw [step_of_moveWait hb hp] at h
      exact .inr (.inr (.inl ⟨ch, pos, spd, rest, rfl, rfl, by cases h; rfl⟩))
    | .poll ch pos :: rest =>
      rw [step_of_poll hb hp] at h
      rcases pollTest_cases ch pos rest s with ⟨-, e⟩ | ⟨hr, e⟩ | ⟨v, hr, hv, e⟩
      · rw [e] at h; cases h
      · rw [e] at h
        exact .inr (.inr (.inr (.inl ⟨ch, pos, rest, rfl, rfl, hr, by cases h; rfl⟩)))
      · rw [e] at h
        exact .inr (.inr (.inr (.inr ⟨ch, pos, rest, v, rfl, rfl, hr, hv, by cases h; rfl⟩)))

/-! ### Runs -/

theorem runSteps_zero (s : State) : runSteps 0 s = .next s := rfl

theorem runSteps_succ_of_next {s t : State} (h : step s = .next t) (k : Nat) :
    runSteps (k + 1) s = runSteps k t := by
  have e : Sys2Proof.core.step s = .next t := h
  simp only [runSteps, Host.Core.run, e]
  rfl

theorem runSteps_succ {s t : State} {k : Nat} (h : runSteps (k + 1) s = .next t) :
    ∃ u, step s = .next u ∧ runSteps k u = .next t := by
  simp only [runSteps, Host.Core.run] at h
  cases hs : Sys2Proof.core.step s with
  | next u => rw [hs] at h; exact ⟨u, hs, h⟩
  | fault r => rw [hs] at h; cases h
  | refused r => rw [hs] at h; cases h

theorem runSteps_add {s t : State} {j : Nat} (h : runSteps j s = .next t) (k : Nat) :
    runSteps (j + k) s = runSteps k t := by
  induction j generalizing s with
  | zero => cases h; simp
  | succ j ih =>
    obtain ⟨u, hs, hu⟩ := runSteps_succ h
    rw [Nat.succ_add, runSteps_succ_of_next hs, ih hu]

/-- What holds at the start and is kept by every step holds after every run. -/
theorem runSteps_invariant {Inv : State → Prop}
    (keep : ∀ s t, Inv s → step s = .next t → Inv t) {s t : State} {k : Nat} (h0 : Inv s)
    (h : runSteps k s = .next t) : Inv t := by
  induction k generalizing s with
  | zero => cases h; exact h0
  | succ k ih =>
    obtain ⟨u, hs, hu⟩ := runSteps_succ h
    exact ih (keep s u h0 hs) hu

/-! ### What a run comes to -/

theorem Reaches.of_run {s t : State} {P : State → Prop} {j : Nat} (h : runSteps j s = .next t)
    (ht : Reaches t P) : Reaches s P := by
  obtain ⟨k, u, hu, hP⟩ := ht
  exact ⟨j + k, u, by rw [runSteps_add h]; exact hu, hP⟩

theorem State.hangs_of_run {s t : State} {j : Nat} (h : runSteps j s = .next t) (ht : t.hangs) :
    s.hangs := by
  obtain ⟨ch, pos, rest, ht⟩ := ht
  refine ⟨ch, pos, rest, fun n => ?_⟩
  obtain ⟨k, u, hk, hu, hf⟩ := ht n
  exact ⟨j + k, u, by omega, by rw [runSteps_add h]; exact hu, hf⟩

/-- A run comes to what any state it reaches comes to. -/
theorem State.comesTo_of_run {s t : State} {j : Nat} {o : RunOutcome} (h : runSteps j s = .next t)
    (ht : t.comesTo o) : s.comesTo o := by
  cases o with
  | completes => exact Reaches.of_run h ht
  | stuckInSend => exact Reaches.of_run h ht
  | stuckInRecv => exact Reaches.of_run h ht
  | hangs => exact State.hangs_of_run h ht

theorem execEvents_succ_of_next {i : Instr} {s t : State} (h : exec i s = .next t) (k : Nat) :
    execEvents i (k + 1) s = execEvents i k t := by
  simp [execEvents, h]

end Sys2Proof.Machine
end

