-- ==== Sys2Proof/Tests/Slice0.lean ====
section
/-! SUPPORT. Tests with results from the spec's tables (95_test_vectors.md; its table numbers are cited),
the smoke test of WellFormed, and a witness for every statement that has hypotheses. -/

namespace Sys2Proof.Tests

open Sys2Proof Sys2Proof.Machine

/-! ### A small state -/

/-- An idle block, its table zero, over a line that accepts every byte and supplies none. -/
def quiet : State where
  params := Params.standard
  pos := List.replicate 32 0#16
  busy := false
  opk := .move
  lch := 0
  lpos := 0
  lspd := 0
  txi := 0
  rxi := 0
  rb0 := 0
  rb1 := 0
  txHist := []
  results := []
  program := []
  tx := { now := [], tail := .again [true] }
  rx := { now := [], tail := .again [] }

/-- The host is about to issue `p`. -/
def hosted (p : List HostOp) : State := { quiet with program := p }

/-- MOVE 5, 1300, 28 in progress, byte `k` next. -/
def moving (k : Fin 4) : State :=
  { quiet with busy := true, opk := .move, lch := 5, lpos := 1300, lspd := 28, txi := k }

/-- FBREQ 16 in progress, byte `k` next. -/
def requesting (k : Fin 4) : State := { quiet with busy := true, opk := .fbreq, lch := 16, txi := k }

/-- FBRECV in progress, byte `k` next, `b0` and `b1` held, `b` coming. -/
def receiving (k : Fin 3) (b0 b1 b : Byte) : State :=
  { quiet with busy := true, opk := .fbrecv, rxi := k, rb0 := b0, rb1 := b1,
               rx := { now := [some b], tail := .again [] } }

/-- The same block over a line that never accepts. -/
def deaf (s : State) : State := { s with tx := { now := [], tail := .again [false] } }

/-- The same block over a line that never supplies. -/
def starved (s : State) : State := { s with rx := { now := [], tail := .again [] } }

/-- The outcome is a next state of which `p` holds. -/
def reaches (p : State → Bool) : Result → Bool
  | .next t => p t
  | _ => false

theorem next_of_reaches {p : State → Bool} {o : Result} (h : reaches p o = true) :
    ∃ t, o = .next t ∧ p t = true := by
  cases o with
  | next t => exact ⟨t, rfl, h⟩
  | fault r => cases h
  | refused r => cases h

/-! ### WellFormed refuses an operand that its field does not hold -/

theorem smoke_move_channel : Instr.wellFormed (.move 64 0 0) = false := by decide
theorem smoke_move_position : Instr.wellFormed (.move 0 4096 0) = false := by decide
theorem smoke_move_speed : Instr.wellFormed (.move 0 0 64) = false := by decide
theorem smoke_fbreq_channel : Instr.wellFormed (.fbreq 64) = false := by decide
theorem smoke_accepts : Instr.wellFormed (.move 63 4095 63) = true ∧
    Instr.wellFormed (.fbreq 63) = true ∧ Instr.wellFormed .fbrecv = true := by decide

/-! ### Decoding words written bit by bit from R61, R62, R63 -/

theorem test_decode_move :
    decodeTableWord 32 0b01000101_00010100_00010100_00011100 = some (.move 5 1300 28) ∧
    decodeTableWord 32 0b01111111_00000000_00000001_00100000 = some (.move 63 1 32) := by decide
theorem test_decode_fbreq :
    decodeTableWord 16 0b01000000_01000101 = some (.fbreq 5) ∧
    decodeTableWord 16 0b01000000_01111111 = some (.fbreq 63) := by decide
theorem test_decode_fbrecv :
    decodeTableWord 24 0b01000001_00000101_00010100 = some .fbrecv ∧
    decodeTableWord 24 0b11111111_11111111_11111111 = some .fbrecv := by decide

/-- Table 2.7 and the tags of R66: a wrong tag in any byte is refused by name. -/
theorem test_decode_rejects :
    decode [0x05, 0x14, 0x14, 0x1C] = .error .notM4 ∧ decode [0xC5, 0x14, 0x14, 0x1C] = .error .notM4 ∧
    decode [0x45, 0x54, 0x14, 0x1C] = .error .notM4 ∧ decode [0x45, 0x14, 0x94, 0x1C] = .error .notM4 ∧
    decode [0x45, 0x14, 0x14, 0x5C] = .error .notM4 ∧ decode [0x41, 0x45] = .error .notQ2 ∧
    decode [0x40, 0x05] = .error .notQ2 ∧ decode [] = .error .badLength ∧
    decode [0x40] = .error .badLength ∧ decode [0x45, 0x14, 0x14, 0x1C, 0x00] = .error .badLength := by
  decide

/-- Table 2.8. -/
theorem test_parse_tx_stream :
    parseTx [0x40, 0, 0, 0, 0x40, 0x40, 0x40, 0x41, 0x41, 0, 0, 0] =
      .ok [.move 0 0 0, .fbreq 0, .fbreq 1, .move 1 0 0] := by decide

/-! ### The spec's vectors for the pure functions -/

/-- Table 2.1, the channel and speed bytes. -/
theorem test_tagCh_spdByte :
    ([(0, 0x40), (1, 0x41), (15, 0x4F), (16, 0x50), (31, 0x5F), (32, 0x60), (63, 0x7F), (64, 0x40),
      (0x80, 0x40), (0x85, 0x45), (0xFF, 0x7F)] : List (Byte × Byte)).all
        (fun v => tagCh v.1 == v.2) = true ∧
    ([(0, 0), (1, 1), (63, 0x3F), (64, 0), (100, 0x24), (0xFF, 0x3F)] : List (Byte × Byte)).all
        (fun v => spdByte v.1 == v.2) = true := by decide

/-- Table 2.1, the position bytes. -/
theorem test_position_bytes :
    ([(0, 0, 0), (63, 0, 0x3F), (64, 1, 0), (732, 0x0B, 0x1C), (1463, 0x16, 0x37), (4032, 0x3F, 0),
      (4095, 0x3F, 0x3F), (4096, 0, 0), (4436, 0x05, 0x14), (0xFFFF, 0x3F, 0x3F)] :
        List (Word × Byte × Byte)).all
      (fun v => posHi v.1 == v.2.1 && posLo v.1 == v.2.2) = true := by decide

/-- Table 2.2. -/
theorem test_encodeMove :
    ([(5, 1300, 28, [0x45, 0x14, 0x14, 0x1C]), (0, 0, 0, [0x40, 0, 0, 0]), (1, 63, 1, [0x41, 0, 0x3F, 1]),
      (1, 64, 1, [0x41, 1, 0, 1]), (1, 4032, 1, [0x41, 0x3F, 0, 1]), (3, 340, 10, [0x43, 0x05, 0x14, 0x0A]),
      (10, 732, 100, [0x4A, 0x0B, 0x1C, 0x24]), (16, 1463, 63, [0x50, 0x16, 0x37, 0x3F]),
      (32, 100, 1, [0x60, 1, 0x24, 1]), (63, 4095, 63, [0x7F, 0x3F, 0x3F, 0x3F]),
      (1, 4096, 0, [0x41, 0, 0, 0]), (2, 4436, 5, [0x42, 0x05, 0x14, 0x05]), (64, 1, 64, [0x40, 0, 1, 0]),
      (0x85, 1300, 28, [0x45, 0x14, 0x14, 0x1C]), (0xFF, 0xFFFF, 0xFF, [0x7F, 0x3F, 0x3F, 0x3F])] :
        List (Byte × Word × Byte × List Byte)).all
      (fun v => encodeMove v.1 v.2.1 v.2.2.1 == v.2.2.2) = true := by decide

/-- Table 2.3. -/
theorem test_encodeFbReq :
    ([(0, 0x40), (1, 0x41), (5, 0x45), (15, 0x4F), (16, 0x50), (31, 0x5F), (32, 0x60), (63, 0x7F),
      (64, 0x40), (0x80, 0x40), (0xFF, 0x7F)] : List (Byte × Byte)).all
      (fun v => encodeFbReq v.1 == [0x40, v.2]) = true := by decide

/-- Table 2.4, the three masks in order. -/
theorem test_decodeChannel :
    ([(0x40, 0, 0, 0), (0x41, 1, 1, 1), (0x4F, 15, 15, 15), (0x50, 0, 16, 16), (0x5F, 15, 31, 31),
      (0x61, 1, 1, 33), (0x7F, 15, 31, 63), (0x01, 1, 1, 1), (0x14, 4, 20, 20), (0xFF, 15, 31, 63)] :
        List (Byte × Byte × Byte × Byte)).all
      (fun v => decodeChannel .m0F v.1 == v.2.1 && decodeChannel .m1F v.1 == v.2.2.1 &&
        decodeChannel .m3F v.1 == v.2.2.2) = true := by decide

/-- Table 2.5. -/
theorem test_decodePosition :
    ([(0, 0, 0), (0, 0x3F, 63), (1, 0, 64), (0x05, 0, 320), (0x05, 0x14, 340), (0x14, 0x14, 1300),
      (0x16, 0x37, 1463), (0x3F, 0x3F, 4095), (0x05, 0x54, 340), (0x05, 0xD4, 340), (0x40, 0, 4096),
      (0x45, 0x14, 4436), (0x85, 0xD4, 8532), (0xC0, 0, 12288), (0xFF, 0xFF, 16383)] :
        List (Byte × Byte × RPos)).all
      (fun v => decodePosition v.1 v.2.1 == v.2.2) = true := by decide

/-- Table 2.6, with whether the frame is well-formed. -/
theorem test_decodeFeedback :
    ([(0x41, 0x05, 0x14, 1, 340, true), (0x50, 0x16, 0x37, 16, 1463, true),
      (0x7F, 0x3F, 0x3F, 31, 4095, true), (0x61, 0x05, 0x14, 1, 340, true),
      (0x01, 0x05, 0x14, 1, 340, false), (0x41, 0x45, 0x14, 1, 4436, false),
      (0x41, 0x05, 0x54, 1, 340, false), (0x41, 0x85, 0xD4, 1, 8532, false),
      (0xFF, 0xFF, 0xFF, 31, 16383, false), (0x05, 0x14, 0x41, 5, 1281, false),
      (0x14, 0x41, 0x05, 20, 4165, false)] : List (Byte × Byte × Byte × Byte × RPos × Bool)).all
      (fun v => decodeFeedback .m1F v.1 v.2.1 v.2.2.1 == { rch := v.2.2.2.1, rpos := v.2.2.2.2.1 } &&
        wfF3 v.1 v.2.1 v.2.2.1 == v.2.2.2.2.2) = true := by decide

/-! ### One event of each operation -/

/-- S1: the third byte of MOVE 5, 1300, 28 is `14`. -/
theorem test_move_third_byte :
    reaches (fun t => t.txHist == [0x14] && t.txi == 3 && t.busy) (exec (.move 5 1300 28) (moving 2)) =
      true := by decide
/-- S1: the fourth byte is `1C`, and MOVE completes. -/
theorem test_move_last_byte :
    reaches (fun t => t.txHist == [0x1C] && t.txi == 0 && !t.busy) (exec (.move 5 1300 28) (moving 3)) =
      true := by decide
/-- Table 2.3: FBREQ 16 starts with `40`. -/
theorem test_fbreq_first_byte :
    reaches (fun t => t.txHist == [0x40] && t.txi == 1 && t.busy) (exec (.fbreq 16) (requesting 0)) =
      true := by decide
/-- Table 2.3: its second byte is `50`, and FBREQ completes. -/
theorem test_fbreq_last_byte :
    reaches (fun t => t.txHist == [0x50] && t.txi == 0 && !t.busy) (exec (.fbreq 16) (requesting 1)) =
      true := by decide
/-- Table 2.6, `41 05 14`: `POS[1] <- 340`, the result is (1, 340). -/
theorem test_fbrecv_third_byte :
    reaches (fun t => t.pos == quiet.pos.set 1 340 && t.results == [{ rch := 1, rpos := 340 }] && !t.busy)
      (exec .fbrecv (receiving 2 0x41 0x05 0x14)) = true := by decide
/-- Table 2.6, `FF FF FF`: `POS[31] <- 16383`. -/
theorem test_fbrecv_malformed :
    reaches (fun t => t.pos == quiet.pos.set 31 16383) (exec .fbrecv (receiving 2 0xFF 0xFF 0xFF)) =
      true := by decide
/-- R130: MOVEWAIT 3, 340, 10 starts with its MOVE. -/
theorem test_moveWait_expands :
    reaches (fun t => t.program == [.op (.move 3 340 10), .poll 3 340])
      (step (hosted [.moveWait 3 340 10])) = true := by decide
/-- R131, R137: channel 35 tests `POS[3]` under the default mask, and 340 leaves the loop. -/
theorem test_moveWait_exit :
    reaches (fun t => t.program.isEmpty)
      (step { hosted [.poll 35 340] with pos := quiet.pos.set 3 340 }) = true := by decide

/-! ### Witnesses: for each statement with hypotheses, inputs that meet them all -/

theorem witness_ByteBuildersAreBitExact :
    (127#8).toNat < 128 ∧ 128 ≤ (128#8).toNat := by decide
theorem witness_EncoderCannotFail : quiet.busy = false := rfl
theorem witness_CommandFramesReadBack :
    wfM4 0x7F 0x3F 0x3F 0x3F = true ∧ wfQ2 0x40 0x7F = true := by decide
theorem witness_DecodeEncodeAgree :
    Instr.wellFormed (.move 63 4095 63) = true ∧ Instr.wellFormed .fbrecv = true ∧
    decode [0x40, 0x7F] = .ok (.fbreq 63) ∧ (Instr.fbreq 63) ≠ .fbrecv := by decide
theorem witness_TxStreamParses :
    ∀ i ∈ [Instr.move 0 0 0, .fbreq 0, .move 0xFF 0xFFFF 0xFF], i ≠ .fbrecv := by decide
theorem witness_FieldRoundTrips :
    32 ≤ (32#8).toNat ∧ (32#8).toNat < 64 ∧ 32 ≤ (63#8).toNat ∧ (63#8).toNat < 64 := by decide
theorem witness_WrittenEntriesFit : wfF3 0x7F 0x3F 0x3F = true := by decide
theorem witness_MisalignedFramesDecode :
    isChannelByte 0x40 = true ∧ isChannelByte 0x7F = true := by decide
theorem witness_EveryIndexExists : quiet.wf = true ∧
    State.wf { quiet with params := ⟨.m0F, .zero⟩, pos := List.replicate 16 0 } = true ∧
    State.wf { quiet with params := ⟨.m3F, .zero⟩, pos := List.replicate 64 0 } = true := by decide
theorem witness_IdleBlockIssues : quiet.busy = false := rfl
theorem witness_BusyBlockRefusesOthers : (moving 0).busy = true ∧
    Instr.fbrecv ≠ (moving 0).inProgress ∧ Instr.move 5 1301 28 ≠ (moving 0).inProgress := by decide

theorem witness_MoveSendsOneByte :
    ((moving 0).busy = true ∧ (moving 0).opk = .move ∧ (moving 0).lch = 5 ∧ (moving 0).lpos = 1300 ∧
      (moving 0).lspd = 28 ∧ (encodeMove 5 1300 28)[(moving 0).txi.val]? = some 0x45 ∧
      (txOffer (moving 0)).1 = true ∧ (moving 0).txi.val < 3) ∧
    ((encodeMove 5 1300 28)[(moving 2).txi.val]? = some 0x14 ∧ (moving 2).txi.val < 3) ∧
    ((encodeMove 5 1300 28)[(moving 3).txi.val]? = some 0x1C ∧ (txOffer (moving 3)).1 = true ∧
      (moving 3).txi.val = 3) ∧
    (txOffer (deaf (moving 3))).1 = false := by decide
theorem witness_FbreqSendsOneByte :
    ((requesting 0).busy = true ∧ (requesting 0).opk = .fbreq ∧ (requesting 0).lch = 16 ∧
      (encodeFbReq 16)[(requesting 0).txi.val]? = some 0x40 ∧ (txOffer (requesting 0)).1 = true) ∧
    ((encodeFbReq 16)[(requesting 1).txi.val]? = some 0x50 ∧ (txOffer (requesting 1)).1 = true ∧
      (requesting 1).txi.val = 1) ∧
    (txOffer (deaf (requesting 1))).1 = false := by decide
theorem witness_FbrecvTakesOneByte :
    ((receiving 0 0 0 0x41).busy = true ∧ (receiving 0 0 0 0x41).opk = .fbrecv ∧
      (rxOffer (receiving 0 0 0 0x41)).1 = some 0x41 ∧ (receiving 0 0 0 0x41).rxi = 0) ∧
    ((rxOffer (receiving 1 0x41 0 0x05)).1 = some 0x05 ∧ (receiving 1 0x41 0 0x05).rxi = 1) ∧
    ((rxOffer (receiving 2 0x41 0x05 0x14)).1 = some 0x14 ∧ (receiving 2 0x41 0x05 0x14).rxi = 2 ∧
      (receiving 2 0x41 0x05 0x14).pos.length = ntab .m1F) ∧
    (rxOffer (starved (receiving 2 0x41 0x05 0x14))).1 = none := by decide

/-- An idle block whose next answers are the given ones. -/
def answered (tx : List Bool) (rx : List (Option Byte)) : State :=
  { quiet with tx := { now := tx, tail := .again [] }, rx := { now := rx, tail := .again [] } }

theorem witness_MoveSendsItsFourBytes :
    (answered [true, false, true, true, true, true] []).busy = false ∧
    (answered [true, false, true, true, true, true] []).tx.now = [true, false, true, true, true] ++ [true] ∧
    Accepts 4 [true, false, true, true, true] ∧ [true, false, true, true].count true < 4 := by
  unfold Accepts; decide
theorem witness_FbreqSendsItsTwoBytes :
    (answered [false, true, true] []).busy = false ∧
    (answered [false, true, true] []).tx.now = [false, true, true] ++ [] ∧
    Accepts 2 [false, true, true] ∧ [false, true].count true < 2 := by
  unfold Accepts; decide
theorem witness_FbrecvWritesTheReportedEntry :
    (answered [] [some 0x41, none, some 0x05, some 0x14, some 0x42]).busy = false ∧
    (answered [] [some 0x41, none, some 0x05, some 0x14, some 0x42]).pos.length = ntab .m1F ∧
    (answered [] [some 0x41, none, some 0x05, some 0x14, some 0x42]).rx.now =
      [some 0x41, none, some 0x05, some 0x14] ++ [some 0x42] ∧
    Supplies [0x41, 0x05, 0x14] [some 0x41, none, some 0x05, some 0x14] ∧
    (([some 0x41, none, some 0x05] : List (Option Byte)).reduceOption).length < 3 := by
  unfold Supplies; decide

theorem witness_SendersLeaveTheRest :
    (Instr.fbreq 16 ≠ .fbrecv ∧ quiet.busy = false ∧ ∃ t, exec (.fbreq 16) quiet = .next t) ∧
    ((moving 3).busy = true ∧ ∃ t, exec (.move 5 1300 28) (moving 3) = .next t) :=
  ⟨⟨by decide, rfl, _, rfl⟩, rfl, _, rfl⟩
theorem witness_ReceiverLeavesTheRest :
    (quiet.busy = false ∧ ∃ t, exec .fbrecv quiet = .next t) ∧
    ((receiving 1 0x41 0 0x05).rxi ≠ 2 ∧ ∃ t, exec .fbrecv (receiving 1 0x41 0 0x05) = .next t) ∧
    (2 ≠ (decodeChannel .m1F 0x41).toNat ∧
      ∃ t, exec .fbrecv (receiving 2 0x41 0x05 0x14) = .next t) :=
  ⟨⟨rfl, _, rfl⟩, ⟨by decide, _, rfl⟩, by decide, _, rfl⟩

theorem witness_StepIssuesTheNextOperation :
    (hosted [.op (.fbreq 1), .op .fbrecv]).busy = false ∧
    (hosted [.op (.fbreq 1), .op .fbrecv]).program = .op (.fbreq 1) :: [.op .fbrecv] := by decide
theorem witness_StepResumesTheOperation :
    ((moving 1).busy = true ∧ (moving 1).opk = .move) ∧
    ((requesting 1).busy = true ∧ (requesting 1).opk = .fbreq) ∧
    ((receiving 1 0 0 0).busy = true ∧ (receiving 1 0 0 0).opk = .fbrecv) ∧
    ∃ t, step (moving 1) = .next t := ⟨by decide, by decide, by decide, _, rfl⟩
theorem witness_FetchWordRunsTheDecodedOperation :
    (decodeTableWord 16 0x4045 = some (.fbreq 5) ∧ Instr.fbreq 5 ≠ .fbrecv) ∧
    decodeTableWord 24 0x410514 = some .fbrecv := by decide
theorem witness_FinishedMachineStandsStill : quiet.finished = true := by decide
theorem witness_MoveWaitExpands :
    (hosted [.moveWait 3 340 10]).busy = false ∧
    (hosted [.moveWait 3 340 10]).program = .moveWait 3 340 10 :: [] := by decide
theorem witness_ExitTestIsEquality :
    (hosted [.poll 3 0]).busy = false ∧ (hosted [.poll 3 0]).program = .poll 3 0 :: [] ∧
    readEntry (hosted [.poll 3 0]) (3#8 &&& rxMaskByte .m1F).toNat = some 0 ∧
    (0#16 = 0#16 ∧ 0#16 ≠ 340#16) := by decide
theorem witness_ZeroRoundTrips :
    State.busy { answered [true, true, true, true] [] with program := [.moveWait 3 0 10] } = false ∧
    readEntry quiet (tableIndex .m1F 3) = some 0 ∧
    (answered [true, true, true, true] []).tx.now = [true, true, true, true] ++ [] ∧
    Accepts 4 [true, true, true, true] := by
  unfold Accepts; decide

/-- P6: FBRECV inside `MOVEWAIT 3, 340, 10` about to take the third byte of `47 01 00`. -/
def foreign : State := { receiving 2 0x47 0x01 0x00 with program := [.poll 3 340] }

theorem witness_ResponseForAnotherChannel :
    foreign.wf = true ∧ foreign.busy = true ∧ foreign.opk = .fbrecv ∧ foreign.rxi = 2 ∧
    foreign.program = .poll 3 340 :: [] ∧ (rxOffer foreign).1 = some 0x00 ∧
    (decodeFeedback .m1F 0x47 0x01 0x00).rch.toNat ≠ tableIndex .m1F 3 ∧
    readEntry foreign (tableIndex .m1F 3) = some 0 ∧ (0#16 ≠ 340#16) := by decide
/-- P6: after the two steps `POS[7]` is 64, `POS[3]` is 0, and channel 3 is asked again. -/
theorem test_response_for_another_channel :
    reaches (fun t => t.pos == quiet.pos.set 7 64 && t.program == [.op (.fbreq 3), .op .fbrecv, .poll 3 340])
      (runSteps 2 foreign) = true := by decide
theorem witness_PollerPhasesFollow :
    (State.wf (hosted [.poll 3 340]) = true ∧ (hosted [.poll 3 340]).pollerPhase = some .moving ∧
      ∃ t, step (hosted [.poll 3 340]) = .next t) ∧
    (foreign.wf = true ∧ foreign.pollerPhase = some .polling ∧ ∃ t, step foreign = .next t) ∧
    (State.wf (hosted [.poll 3 0]) = true ∧ (hosted [.poll 3 0]).pollerPhase = some .arrived ∧
      ∃ t, step (hosted [.poll 3 0]) = .next t) :=
  ⟨⟨by decide, by decide, _, rfl⟩, ⟨by decide, by decide, _, rfl⟩, by decide, by decide, _, rfl⟩

/-! ### Witnesses of the statements about whole runs -/

/-- P3: `MOVEWAIT 3, 340, 10`, the board answering `43 05 00` and `43 05 14`. -/
def twoTrips : State :=
  { hosted [.moveWait 3 340 10] with
      rx := { now := [some 0x43, some 0x05, some 0x00, some 0x43, some 0x05, some 0x14],
              tail := .again [] } }

/-- P3b: `MOVEWAIT 3, 340, 10` with `POS[3]` = 340. -/
def arrivedBefore : State := { hosted [.moveWait 3 340 10] with pos := quiet.pos.set 3 340 }

/-- P7: `MOVEWAIT 2, 4436, 5`, the board answering `42 05 14` for ever. -/
def beyondTheWire : State :=
  { hosted [.moveWait 2 4436 5] with
      rx := { now := [], tail := .again [some 0x42, some 0x05, some 0x14] } }

theorem quiet_accepts : quiet.tx.alwaysAccepts := ⟨rfl, 0, rfl⟩

/-- The two answers of P3. -/
def answers : List Frame3 := [(0x43#8, 0x05#8, 0x00#8), (0x43#8, 0x05#8, 0x14#8)]

theorem answers_entries : answers.map (Frame3.entry .m1F) = [320#16, 340#16] := by decide

theorem witness_MoveWaitCompletes :
    twoTrips.wf = true ∧ twoTrips.busy = false ∧ twoTrips.program = .moveWait 3 340 10 :: [] ∧
    twoTrips.tx.alwaysAccepts ∧
    twoTrips.rx.now = (answers.flatMap Frame3.bytes).map some ++ [] ∧
    (∀ f ∈ answers, f.reports .m1F (tableIndex .m1F 3)) ∧
    readEntry twoTrips (tableIndex .m1F 3) = some 0 ∧
    (0#16 :: answers.map (Frame3.entry .m1F)).getLast? = some 340 ∧
    (∀ v ∈ (0#16 :: answers.map (Frame3.entry .m1F)).dropLast, v ≠ 340) := by
  rw [answers_entries]
  exact ⟨by decide, rfl, rfl, quiet_accepts, rfl,
    by intro f hf; simp only [answers, List.mem_cons, List.not_mem_nil, or_false] at hf
       rcases hf with rfl | rfl <;> rfl,
    by decide, rfl, by simp⟩
theorem witness_MoveWaitCompletes_at_once :
    arrivedBefore.wf = true ∧ arrivedBefore.busy = false ∧ arrivedBefore.tx.alwaysAccepts ∧
    arrivedBefore.rx.now = (([] : List Frame3).flatMap Frame3.bytes).map some ++ [] ∧
    readEntry arrivedBefore (tableIndex .m1F 3) = some 340 ∧
    (340#16 :: ([] : List Frame3).map (Frame3.entry .m1F)).getLast? = some 340 :=
  ⟨by decide, rfl, quiet_accepts, rfl, by decide, rfl⟩
/-- P3 over a line that accepts every second attempt and a board that lets two attempts go by. -/
def twoSlowTrips : State :=
  { hosted [.moveWait 3 340 10] with
      tx := { now := [], tail := .again [false, true] },
      rx := { now := [none, some 0x43, some 0x05, some 0x00, some 0x43, none, some 0x05, some 0x14],
              tail := .again [] } }

theorem witness_MoveWaitCompletesDespiteWaits :
    twoSlowTrips.wf = true ∧ twoSlowTrips.busy = false ∧
    twoSlowTrips.program = .moveWait 3 340 10 :: [] ∧
    twoSlowTrips.tx.servesForever Config.txOracle id ∧
    Supplies (answers.flatMap Frame3.bytes) twoSlowTrips.rx.now ∧
    (∀ f ∈ answers, f.reports .m1F (tableIndex .m1F 3)) ∧
    readEntry twoSlowTrips (tableIndex .m1F 3) = some 0 ∧
    (0#16 :: answers.map (Frame3.entry .m1F)).getLast? = some 340 ∧
    (∀ v ∈ (0#16 :: answers.map (Frame3.entry .m1F)).dropLast, v ≠ 340) :=
  have w := witness_MoveWaitCompletes
  ⟨by decide, rfl, rfl, Feed.servesForever_again (a := true) (by simp) rfl, ⟨rfl, rfl⟩,
    w.2.2.2.2.2.1, by decide, w.2.2.2.2.2.2.2⟩
theorem witness_CompletedMoveWaitInAProgram :
    (hosted [.moveWait 3 0 10, .op (.fbreq 3)]).busy = false ∧
    (hosted [.moveWait 3 0 10, .op (.fbreq 3)]).program = .moveWait 3 0 10 :: [.op (.fbreq 3)] ∧
    reaches (fun t => t.program == [.op (.fbreq 3)])
      (runSteps 7 (hosted [.moveWait 3 0 10, .op (.fbreq 3)])) = true ∧
    ∀ j < 7, reaches (fun t => t.program != [.op (.fbreq 3)])
      (runSteps j (hosted [.moveWait 3 0 10, .op (.fbreq 3)])) = true := by decide
theorem witness_CompletedMoveWaitTrace :
    arrivedBefore.busy = false ∧ arrivedBefore.program = [.moveWait 3 340 10] ∧
    arrivedBefore.rx.tail = .again [] ∧
    ∃ t, runSteps 7 arrivedBefore = .next t ∧ t.finished = true :=
  ⟨rfl, rfl, rfl, next_of_reaches (by decide)⟩
theorem witness_UnreachableTargetNeverCompletes :
    (hosted [.moveWait 2 16384 5]).busy = false ∧
    (hosted [.moveWait 2 16384 5]).program = [.moveWait 2 16384 5] ∧ 16384 ≤ (16384#16).toNat ∧
    readEntry (hosted [.moveWait 2 16384 5]) (tableIndex .m1F 2) ≠ some 16384 ∧
    ∃ t, runSteps 2 (hosted [.moveWait 2 16384 5]) = .next t :=
  ⟨rfl, rfl, by decide, by decide, _, rfl⟩
theorem witness_UnansweredTargetHangs :
    beyondTheWire.wf = true ∧ beyondTheWire.busy = false ∧
    beyondTheWire.program = .moveWait 2 4436 5 :: [] ∧ beyondTheWire.tx.alwaysAccepts ∧
    beyondTheWire.rx.now = [] ∧
    beyondTheWire.rx.tail = .again ((Frame3.bytes (0x42, 0x05, 0x14)).map some) ∧
    readEntry beyondTheWire (tableIndex .m1F 2) ≠ some 4436 ∧
    (Frame3.reports .m1F (tableIndex .m1F 2) (0x42, 0x05, 0x14) →
      Frame3.entry .m1F (0x42, 0x05, 0x14) ≠ 4436) :=
  ⟨by decide, rfl, rfl, quiet_accepts, rfl, rfl, by decide, fun _ => by decide⟩

/-! ### Witnesses of the statements about the whole machine -/

theorem witness_ResetIsAsSpecified : (Params.mk .m3F .zero).posReset = .zero := rfl
theorem witness_StepKeepsWellFormed :
    foreign.wf = true ∧ ∃ t, step foreign = .next t := ⟨by decide, _, rfl⟩
theorem witness_NoRunStops : foreign.wf = true ∧ quiet.wf = true := by decide
theorem witness_OnlyTheThirdByteWritesTheTable :
    ∃ t, step foreign = .next t ∧ t.pos ≠ foreign.pos := ⟨_, rfl, by decide⟩
theorem witness_SentBytesHaveBitSevenClear :
    (∀ b ∈ (State.txHist { moving 1 with txHist := [0x45] }), b.toNat < 0x80) ∧
    ∃ t, step { moving 1 with txHist := [0x45] } = .next t := ⟨by decide, _, rfl⟩
theorem witness_ParametersAreFixed : ∃ t, step (requesting 1) = .next t := ⟨_, rfl⟩
theorem witness_OperandsStayLatched :
    (moving 2).busy = true ∧ ∃ t, step (moving 2) = .next t := ⟨rfl, _, rfl⟩
theorem witness_StreamsAreConsumedInOrder :
    (∃ t, step foreign = .next t ∧ t.rx ≠ foreign.rx) ∧
    (∃ t, step { moving 0 with tx := ⟨[false, true], .again []⟩ } = .next t ∧
      t.tx ≠ ⟨[false, true], .again []⟩) := ⟨⟨_, rfl, by decide⟩, _, rfl, by decide⟩
theorem witness_StuckStaysStuck :
    ((deaf (moving 2)).wf = true ∧ (deaf (moving 2)).stuckInSend) ∧
    ((starved (receiving 2 0x0B 0x1D 0)).wf = true ∧
      (starved (receiving 2 0x0B 0x1D 0)).stuckInRecv) :=
  ⟨⟨by decide, rfl, by decide, Feed.neverServes_again (now := []) (answers := [false]) (by simp) (by simp)⟩,
    by decide, rfl, rfl, Feed.neverServes_again (now := []) (answers := []) (by simp) (by simp)⟩
theorem witness_EveryRunHasOneOutcome : State.wf { foreign with rx := ⟨[], .oracle 0⟩ } = true := by decide
theorem witness_IdleLatchesAreUnobservable :
    twoTrips.busy = false ∧
    ({ twoTrips with lch := 9, rb0 := 0xFF } : State) =
      { twoTrips with opk := twoTrips.opk, lch := 9, lpos := twoTrips.lpos, lspd := twoTrips.lspd,
                      rb0 := 0xFF, rb1 := twoTrips.rb1 } ∧
    ∃ t, runSteps 3 twoTrips = .next t := ⟨rfl, rfl, _, rfl⟩
theorem witness_EncodingIsStateless :
    Instr.move 5 1300 28 ≠ .fbrecv ∧ (moving 2).busy = true ∧
    (State.txi { moving 2 with pos := [], txHist := [0x45], rb0 := 9 }) = (moving 2).txi ∧
    (txOffer (moving 2)).1 = (txOffer { moving 2 with pos := [], txHist := [0x45], rb0 := 9 }).1 ∧
    (∃ t, exec (.move 5 1300 28) (moving 2) = .next t) ∧
    ∃ t, exec (.move 5 1300 28) { moving 2 with pos := [], txHist := [0x45], rb0 := 9 } = .next t :=
  ⟨by decide, rfl, rfl, rfl, ⟨_, rfl⟩, _, rfl⟩

end Sys2Proof.Tests
end

section
/-! PROOFS. A step of a busy block is one event of the operation in progress. -/

namespace Sys2Proof.Machine

/-! ### The operation in progress, by the kind the block holds -/

theorem State.inProgress_of_move {s : State} (ho : s.opk = .move) :
    s.inProgress = .move s.lch s.lpos s.lspd := by
  simp [State.inProgress, ho]

theorem State.inProgress_of_fbreq {s : State} (ho : s.opk = .fbreq) :
    s.inProgress = .fbreq s.lch := by
  simp [State.inProgress, ho]

theorem State.inProgress_of_fbrecv {s : State} (ho : s.opk = .fbrecv) : s.inProgress = .fbrecv := by
  simp [State.inProgress, ho]

/-! ### What a step of a busy block does -/

/-- With an operation in progress a step sends or receives; nothing else can happen (R7, R30). -/
theorem step_next_of_busy {s t : State} (hb : s.busy = true) (h : step s = .next t) :
    (s.opk ≠ .fbrecv ∧ SendNext s.frame s t) ∨ (s.opk = .fbrecv ∧ RecvNext s t) := by
  rw [step_of_busy hb] at h
  rcases exec_next h with ⟨hidle, -⟩ | ⟨-, -, ho, hsend⟩ | ⟨-, -, ho, hrecv⟩
  · rw [hb] at hidle; cases hidle
  · exact .inl ⟨ho, hsend⟩
  · exact .inr ⟨ho, hrecv⟩

theorem SendNext.program_eq {frame : List Byte} {s t : State} (h : SendNext frame s t) :
    t.program = s.program := by
  obtain ⟨-, -, -, -, -, -, -, -, -, -, hprogram, -⟩ := h.rest
  exact hprogram

theorem RecvNext.program_eq {s t : State} (h : RecvNext s t) : t.program = s.program := by
  obtain ⟨-, -, -, -, -, -, -, hprogram, -⟩ := h.rest
  exact hprogram

/-- The host issues nothing while an operation is in progress, so its program stays (R7). -/
theorem step_program_of_busy {s t : State} (hb : s.busy = true) (h : step s = .next t) :
    t.program = s.program := by
  rcases step_next_of_busy hb h with ⟨-, hsend⟩ | ⟨-, hrecv⟩
  · exact hsend.program_eq
  · exact hrecv.program_eq

/-- Settles O26: a busy block executes the operation in progress, which each kind of operation rebuilds
from the latches, and neither a send step nor a receive step writes the program. -/
theorem stepResumesTheOperation : Obligations.StepResumesTheOperation := by
  intro s hb
  refine ⟨fun ho => ?_, fun ho => ?_, fun ho => ?_, fun t h => step_program_of_busy hb h⟩
  · rw [step_of_busy hb, State.inProgress_of_move ho]
  · rw [step_of_busy hb, State.inProgress_of_fbreq ho]
  · rw [step_of_busy hb, State.inProgress_of_fbrecv ho]

end Sys2Proof.Machine
end

section
/-! PROOFS. What a step of an idle block leaves alone, and what a step of any block leaves alone: the
host moves while the block is idle, and the block works while it is busy. -/

namespace Sys2Proof.Machine

/-! ### A primitive's issue touches the sequencer and nothing else -/

section Issued
variable (s : State) (i : Instr)

@[simp] theorem State.issued_params : (s.issued i).params = s.params := by cases i <;> rfl
@[simp] theorem State.issued_pos : (s.issued i).pos = s.pos := by cases i <;> rfl
@[simp] theorem State.issued_busy : (s.issued i).busy = true := by cases i <;> rfl
@[simp] theorem State.issued_txHist : (s.issued i).txHist = s.txHist := by cases i <;> rfl
@[simp] theorem State.issued_results : (s.issued i).results = s.results := by cases i <;> rfl
@[simp] theorem State.issued_tx : (s.issued i).tx = s.tx := by cases i <;> rfl
@[simp] theorem State.issued_rx : (s.issued i).rx = s.rx := by cases i <;> rfl

end Issued

/-! ### A step of an idle block -/

/-- While the block is idle a step issues a primitive or moves the host's program; the table, the records
and the environment stay (R25, R30). -/
theorem step_rest_of_idle {s t : State} (hidle : s.busy = false) (h : step s = .next t) :
    t.params = s.params ∧ t.pos = s.pos ∧ t.txHist = s.txHist ∧ t.results = s.results ∧
    t.tx = s.tx ∧ t.rx = s.rx := by
  rcases step_next h with ⟨hbusy, -⟩ | ⟨hbusy, -⟩ | ⟨-, -, rfl⟩ | ⟨i, rest, -, -, rfl⟩ |
    ⟨_, _, _, _, -, -, rfl⟩ | ⟨_, _, _, -, -, -, rfl⟩ | ⟨_, _, _, _, -, -, -, -, rfl⟩
  · rw [hidle] at hbusy; cases hbusy
  · rw [hidle] at hbusy; cases hbusy
  all_goals simp

theorem step_pos_of_idle {s t : State} (hidle : s.busy = false) (h : step s = .next t) :
    t.pos = s.pos := by
  obtain ⟨-, hpos, -⟩ := step_rest_of_idle hidle h
  exact hpos

/-! ### A step of any block -/

theorem SendNext.pos_eq {frame : List Byte} {s t : State} (h : SendNext frame s t) :
    t.pos = s.pos := by
  obtain ⟨-, hpos, -⟩ := h.rest
  exact hpos

/-- Every step is a send step, a receive step, or a step of an idle block. -/
theorem step_next_busy_or_idle {s t : State} (h : step s = .next t) :
    (s.busy = true ∧ s.opk ≠ .fbrecv ∧ SendNext s.frame s t) ∨
    (s.busy = true ∧ s.opk = .fbrecv ∧ RecvNext s t) ∨ s.busy = false := by
  cases hb : s.busy with
  | true => exact (step_next_of_busy hb h).imp (⟨rfl, ·⟩) fun hrecv => .inl ⟨rfl, hrecv⟩
  | false => exact .inr (.inr rfl)

/-! ### The issue of an operation -/

/-- Settles O15: each of the three is the issue of its operation, and that is the state written out. -/
theorem idleBlockIssues : Obligations.IdleBlockIssues := fun _ hidle =>
  ⟨exec_move_idle hidle, exec_fbreq_idle hidle, exec_fbrecv_idle hidle⟩

/-- Settles O25: the step fetches the program's head and moves past it, and the idle block issues it. -/
theorem stepIssuesTheNextOperation : Obligations.StepIssuesTheNextOperation := by
  intro s i rest hidle hprogram
  have hfetch : step s = exec i (s.withProgram rest) := step_of_op hidle hprogram
  exact ⟨hfetch, (s.withProgram rest).issued i, hfetch.trans (exec_idle (s := s.withProgram rest) hidle i)⟩

/-! ### What no step, or only one kind of step, changes -/

/-- Settles O44: neither the sender, nor the receiver, nor the host writes the parameters. -/
theorem parametersAreFixed : Obligations.ParametersAreFixed := by
  intro s t h
  rcases step_next_busy_or_idle h with ⟨-, -, hsend⟩ | ⟨-, -, hrecv⟩ | hidle
  · obtain ⟨hparams, -⟩ := hsend.rest
    exact hparams
  · obtain ⟨hparams, -⟩ := hrecv.rest
    exact hparams
  · obtain ⟨hparams, -⟩ := step_rest_of_idle hidle h
    exact hparams

/-- Settles O45: neither a send step nor a receive step writes `opk`, an operand latch or the program. -/
theorem operandsStayLatched : Obligations.OperandsStayLatched := by
  intro s t hbusy h
  rcases step_next_of_busy hbusy h with ⟨-, hsend⟩ | ⟨-, hrecv⟩
  · obtain ⟨-, -, hopk, hlch, hlpos, hlspd, -⟩ := hsend.rest
    exact ⟨hopk, hlch, hlpos, hlspd, hsend.program_eq⟩
  · obtain ⟨-, hopk, hlch, hlpos, hlspd, -⟩ := hrecv.rest
    exact ⟨hopk, hlch, hlpos, hlspd, hrecv.program_eq⟩

/-- Settles O46: a send step consumes one answer to a send and leaves the RX stream, a receive step the
other way round, and an idle block leaves both. -/
theorem streamsAreConsumedInOrder : Obligations.StreamsAreConsumedInOrder := by
  intro s t h
  rcases step_next_busy_or_idle h with ⟨hbusy, hkind, hsend⟩ | ⟨hbusy, hkind, hrecv⟩ | hidle
  · obtain ⟨-, -, -, -, -, -, -, -, -, -, -, hrx, htx, -⟩ := hsend.rest
    exact ⟨fun hne => absurd hrx hne, fun _ => ⟨hbusy, hkind, htx⟩⟩
  · obtain ⟨-, -, -, -, -, -, -, -, htx, hrx, -⟩ := hrecv.rest
    exact ⟨fun _ => ⟨hbusy, hkind, hrx⟩, fun hne => absurd htx hne⟩
  · obtain ⟨-, -, -, -, htx, hrx⟩ := step_rest_of_idle hidle h
    exact ⟨fun hne => absurd hrx hne, fun hne => absurd htx hne⟩

/-- Settles O42: a sender and an idle block leave the table, and so does a receiver that waits or takes
its first or second byte. -/
theorem onlyTheThirdByteWritesTheTable : Obligations.OnlyTheThirdByteWritesTheTable := by
  intro s t h hne
  rcases step_next_busy_or_idle h with ⟨-, -, hsend⟩ | ⟨hbusy, hkind, hrecv⟩ | hidle
  · exact absurd hsend.pos_eq hne
  · rcases hrecv with ⟨-, rfl⟩ | ⟨b, hb, ⟨-, rfl⟩ | ⟨-, rfl⟩ | ⟨hrxi, -, rfl⟩⟩
    · exact absurd (s.recvWaited_pos _) hne
    · exact absurd (s.tookFirst_pos b _) hne
    · exact absurd (s.tookSecond_pos b _) hne
    · exact ⟨hbusy, hkind, hrxi, b, hb, rfl, rfl⟩
  · exact absurd (step_pos_of_idle hidle h) hne

end Sys2Proof.Machine
end

section
/-! PROOFS. The table's indices and entries, and the invariant `State.wf`: it holds after reset and every
step keeps it. -/

namespace Sys2Proof.Machine

/-! ### The range of an entry -/

/-- A table entry is a decoded position, 14 bits wide (R23). -/
theorem entryOf_toNat (r : RPos) : (entryOf r).toNat = r.toNat :=
  BitVec.toNat_setWidth_of_le (by decide)

/-- A high byte with tag `00` leaves bits 13:12 of the position clear (R66, R111). -/
theorem decodePosition_lt_of_isSextetByte {b1 : Byte} (h : isSextetByte b1 = true) (b2 : Byte) :
    (decodePosition b1 b2).toNat < 2 ^ 12 := by
  obtain ⟨h6, h7⟩ := isSextetByte_iff.mp h
  refine Nat.lt_pow_two_of_testBit _ fun i hi => ?_
  rw [BitVec.testBit_toNat, getLsbD_decodePosition, if_neg (by omega)]
  rcases Nat.lt_or_ge i 14 with hlt | hge
  · interval_cases i
    · exact h6
    · exact h7
  · exact BitVec.getLsbD_of_ge _ _ (by omega)

/-- Settles O12: an entry is a 14-bit position, of 12 bits if the high byte is a sextet. -/
theorem writtenEntriesFit : Obligations.WrittenEntriesFit := by
  intro m b0 b1 b2
  rw [entryOf_toNat]
  refine ⟨BitVec.isLt _, fun hwf => ?_⟩
  have hb1 : isSextetByte b1 = true := by
    simp only [wfF3, Bool.and_eq_true] at hwf
    obtain ⟨⟨-, hb1⟩, -⟩ := hwf
    exact hb1
  exact Nat.le_of_lt_succ (decodePosition_lt_of_isSextetByte hb1 b2)

/-! ### The invariant, piece by piece -/

theorem State.wf_iff {s : State} :
    s.wf = true ↔ s.pos.length = ntab s.params.rxMask ∧ s.indicesOk = true := by
  simp [State.wf]

theorem State.indicesOk_iff_of_idle {s : State} (hidle : s.busy = false) :
    s.indicesOk = true ↔ s.txi = 0 ∧ s.rxi = 0 := by
  simp [State.indicesOk, hidle]

/-- A sender's `txi` lies in its frame; for a MOVE the four values of `txi` are the frame (R30). -/
theorem State.indicesOk_iff_of_sending {s : State} (hbusy : s.busy = true) (hkind : s.opk ≠ .fbrecv) :
    s.indicesOk = true ↔ s.txi.val < s.frame.length ∧ s.rxi = 0 := by
  cases ho : s.opk with
  | move => simp [State.indicesOk, State.frame, hbusy, ho, encodeMove_length, s.txi.isLt]
  | fbreq => simp [State.indicesOk, State.frame, hbusy, ho, encodeFbReq_length]
  | fbrecv => exact absurd ho hkind

theorem State.indicesOk_iff_of_receiving {s : State} (hbusy : s.busy = true) (hkind : s.opk = .fbrecv) :
    s.indicesOk = true ↔ s.txi = 0 := by
  simp [State.indicesOk, hbusy, hkind]

/-! ### The index part, kept by each kind of step -/

/-- Moving the host's program leaves the byte indices as they are. -/
@[simp] theorem State.withProgram_indicesOk (s : State) (p : List HostOp) :
    (s.withProgram p).indicesOk = s.indicesOk := rfl

theorem State.issued_indicesOk {s : State} (htxi : s.txi = 0) (hrxi : s.rxi = 0) (i : Instr) :
    (s.issued i).indicesOk = true := by
  cases i with
  | move ch pos spd => simp [State.issued, State.indicesOk, hrxi]
  | fbreq ch => simp [State.issued, State.indicesOk, hrxi]
  | fbrecv => simp [State.issued, State.indicesOk, htxi]

theorem SendNext.indicesOk {s t : State} (h : SendNext s.frame s t) (hbusy : s.busy = true)
    (hkind : s.opk ≠ .fbrecv) (hs : s.indicesOk = true) : t.indicesOk = true := by
  obtain ⟨htxi, hrxi⟩ := (State.indicesOk_iff_of_sending hbusy hkind).mp hs
  obtain ⟨b, -, ⟨-, rfl⟩ | ⟨-, hmore, rfl⟩ | ⟨-, -, rfl⟩⟩ := h
  · exact (State.indicesOk_iff_of_sending hbusy hkind).mpr ⟨htxi, hrxi⟩
  · refine (State.indicesOk_iff_of_sending (s := s.sentByte b _) hbusy hkind).mpr ⟨?_, hrxi⟩
    have hle : (s.txi + 1).val ≤ s.txi.val + 1 := by rw [Fin.val_add]; exact Nat.mod_le _ _
    exact Nat.lt_of_le_of_lt hle hmore
  · exact (State.indicesOk_iff_of_idle rfl).mpr ⟨rfl, hrxi⟩

theorem RecvNext.indicesOk {s t : State} (h : RecvNext s t) (hbusy : s.busy = true)
    (hkind : s.opk = .fbrecv) (hs : s.indicesOk = true) : t.indicesOk = true := by
  have htxi : s.txi = 0 := (State.indicesOk_iff_of_receiving hbusy hkind).mp hs
  rcases h with ⟨-, rfl⟩ | ⟨b, -, ⟨-, rfl⟩ | ⟨-, rfl⟩ | ⟨-, -, rfl⟩⟩
  · exact (State.indicesOk_iff_of_receiving (s := s.recvWaited _) hbusy hkind).mpr htxi
  · exact (State.indicesOk_iff_of_receiving (s := s.tookFirst b _) hbusy hkind).mpr htxi
  · exact (State.indicesOk_iff_of_receiving (s := s.tookSecond b _) hbusy hkind).mpr htxi
  · exact (State.indicesOk_iff_of_idle rfl).mpr ⟨htxi, rfl⟩

theorem step_keeps_indicesOk {s t : State} (hs : s.indicesOk = true) (h : step s = .next t) :
    t.indicesOk = true := by
  rcases step_next h with ⟨hbusy, hkind, hsend⟩ | ⟨hbusy, hkind, hrecv⟩ | ⟨-, -, rfl⟩ |
    ⟨i, rest, hidle, -, rfl⟩ | ⟨_, _, _, _, -, -, rfl⟩ | ⟨_, _, _, -, -, -, rfl⟩ |
    ⟨_, _, _, _, -, -, -, -, rfl⟩
  · exact hsend.indicesOk hbusy hkind hs
  · exact hrecv.indicesOk hbusy hkind hs
  · exact hs
  · obtain ⟨htxi, hrxi⟩ := (State.indicesOk_iff_of_idle hidle).mp hs
    exact State.issued_indicesOk (s := s.withProgram rest) htxi hrxi i
  all_goals exact hs

/-! ### The table part -/

/-- No step makes the table longer or shorter (R21). -/
theorem step_pos_length {s t : State} (h : step s = .next t) : t.pos.length = s.pos.length := by
  rcases step_next_busy_or_idle h with ⟨-, -, hsend⟩ | ⟨-, -, hrecv⟩ | hidle
  · rw [hsend.pos_eq]
  · obtain ⟨-, -, -, -, -, -, -, -, -, -, hlength⟩ := hrecv.rest
    exact hlength
  · rw [step_pos_of_idle hidle h]

/-- Settles O40: a step keeps the table's length, the mask that sizes it, and the byte indices' ranges. -/
theorem stepKeepsWellFormed : Obligations.StepKeepsWellFormed := by
  intro s t hwf h
  obtain ⟨hlength, hindices⟩ := State.wf_iff.mp hwf
  refine State.wf_iff.mpr ⟨?_, step_keeps_indicesOk hindices h⟩
  rw [step_pos_length h, hlength, parametersAreFixed s t h]

/-- Settles O14: the table has `NTAB` entries, and what the mask leaves of a byte is below `NTAB`. -/
theorem everyIndexExists : Obligations.EveryIndexExists := by
  intro s ch hwf
  obtain ⟨hlength, -⟩ := State.wf_iff.mp hwf
  have hindex : tableIndex s.params.rxMask ch < s.pos.length := by
    rw [hlength]; exact tableIndex_lt_ntab _ _
  obtain ⟨h16, h32, h64⟩ := ntab_values
  refine ⟨hindex, readEntry_isSome hindex, fun hm => ?_, fun hm => ?_, fun hm => ?_⟩
  · rw [hlength, hm, h16]
  · rw [hlength, hm, h32]
  · rw [hlength, hm, h64]

/-! ### Reset -/

theorem State.resetWith_pos_length (p : Params) :
    (State.resetWith p).pos.length = ntab p.rxMask := by
  simp [State.resetWith]

theorem entryAtReset_of_zero {p : Params} (h : p.posReset = .zero) (i : Nat) :
    entryAtReset p i = 0 := by
  simp [entryAtReset, h]

/-- Settles O38: the fields are as `State.resetWith` writes them, and the table draws one entry per index. -/
theorem resetIsAsSpecified : Obligations.ResetIsAsSpecified := by
  intro p
  refine ⟨rfl, rfl, rfl, rfl, rfl, rfl, rfl, State.resetWith_pos_length p, fun hzero v hv => ?_⟩
  obtain ⟨i, -, rfl⟩ := List.mem_map.mp hv
  exact entryAtReset_of_zero hzero i

/-- Settles O39: the reset table has `NTAB` entries and both byte indices of the idle block are 0. -/
theorem resetIsWellFormed : Obligations.ResetIsWellFormed := fun p =>
  State.wf_iff.mpr ⟨State.resetWith_pos_length p, (State.indicesOk_iff_of_idle rfl).mpr ⟨rfl, rfl⟩⟩

end Sys2Proof.Machine
end

section
/-! PROOFS. The latches no rule reads any more are unobservable (R33, U4). Two states that agree but for
such latches take the same steps and agree so again: a simulation, from which the observation follows. -/

namespace Sys2Proof.Machine

/-! ### The six latches, as one value -/

/-- The latches of R30 that reset leaves unspecified. -/
structure Latches where
  opk : OpKind
  lch : Byte
  lpos : Word
  lspd : Byte
  rb0 : Byte
  rb1 : Byte

/-- What the latches of `s` hold. -/
def State.latches (s : State) : Latches :=
  { opk := s.opk, lch := s.lch, lpos := s.lpos, lspd := s.lspd, rb0 := s.rb0, rb1 := s.rb1 }

/-- `s` with other values in its latches. -/
def State.withLatches (s : State) (l : Latches) : State :=
  { s with opk := l.opk, lch := l.lch, lpos := l.lpos, lspd := l.lspd, rb0 := l.rb0, rb1 := l.rb1 }

section WithLatches
variable (s : State) (l : Latches)

@[simp] theorem State.withLatches_params : (s.withLatches l).params = s.params := rfl
@[simp] theorem State.withLatches_opk : (s.withLatches l).opk = l.opk := rfl
@[simp] theorem State.withLatches_rb0 : (s.withLatches l).rb0 = l.rb0 := rfl
@[simp] theorem State.withLatches_rb1 : (s.withLatches l).rb1 = l.rb1 := rfl

@[simp] theorem State.withLatches_latches : (s.withLatches l).withLatches s.latches = s := rfl

end WithLatches

/-! ### The latches a state still reads -/

/-- `l` agrees with the latches of `s` wherever `s` still reads them: an idle block reads none; a busy one
reads its kind, a sender the operands its frame is made of, a receiver the bytes it has taken (R30). -/
structure State.AgreesOnLive (s : State) (l : Latches) : Prop where
  opk : s.busy = true → l.opk = s.opk
  frame : s.busy = true → (s.withLatches l).frame = s.frame
  rb0 : s.busy = true → s.opk = .fbrecv → s.rxi ≠ 0 → l.rb0 = s.rb0
  rb1 : s.busy = true → s.opk = .fbrecv → s.rxi = 2 → l.rb1 = s.rb1

section Simulation
variable {s t : State} {l : Latches}

theorem State.AgreesOnLive.of_idle (hidle : s.busy = false) : s.AgreesOnLive l := by
  constructor <;> simp [hidle]

theorem State.AgreesOnLive.of_sending (hkind : s.opk ≠ .fbrecv) (hopk : l.opk = s.opk)
    (hframe : (s.withLatches l).frame = s.frame) : s.AgreesOnLive l where
  opk _ := hopk
  frame _ := hframe
  rb0 _ hrecv := absurd hrecv hkind
  rb1 _ hrecv := absurd hrecv hkind

theorem State.AgreesOnLive.symm (hl : s.AgreesOnLive l) : (s.withLatches l).AgreesOnLive s.latches where
  opk hbusy := (hl.opk hbusy).symm
  frame hbusy := (hl.frame hbusy).symm
  rb0 hbusy hkind hrxi := (hl.rb0 hbusy ((hl.opk hbusy).symm.trans hkind) hrxi).symm
  rb1 hbusy hkind hrxi := (hl.rb1 hbusy ((hl.opk hbusy).symm.trans hkind) hrxi).symm

/-! ### Steps, from what is done to what is answered -/

theorem pollTest_of_arrived {ch : Byte} {pos : Word} {rest : List HostOp}
    (h : readEntry s (tableIndex s.params.rxMask ch) = some pos) :
    pollTest ch pos rest s = .next (s.withProgram rest) := by
  simp [pollTest, h, arrived]

theorem pollTest_of_ne {ch : Byte} {pos v : Word} {rest : List HostOp}
    (h : readEntry s (tableIndex s.params.rxMask ch) = some v) (hv : v ≠ pos) :
    pollTest ch pos rest s = .next (s.withProgram (expandRoundTrip ch pos rest)) := by
  simp [pollTest, h, arrived, hv]

theorem step_of_sendNext (hbusy : s.busy = true) (hkind : s.opk ≠ .fbrecv) (h : SendNext s.frame s t) :
    step s = .next t := by
  rw [step_of_busy hbusy, exec_inProgress hbusy, if_neg hkind]
  exact sendStep_next.mpr h

theorem step_of_recvNext (hbusy : s.busy = true) (hkind : s.opk = .fbrecv) (h : RecvNext s t) :
    step s = .next t := by
  rw [step_of_busy hbusy, exec_inProgress hbusy, if_pos hkind]
  exact recvStep_next.mpr h

/-! ### The simulation, step by step -/

/-- A send step writes no latch and reads them through the frame alone. -/
theorem SendNext.withLatches (h : SendNext s.frame s t) (hbusy : s.busy = true) (hkind : s.opk ≠ .fbrecv)
    (hl : s.AgreesOnLive l) :
    SendNext (s.withLatches l).frame (s.withLatches l) (t.withLatches l) ∧ t.AgreesOnLive l := by
  rw [hl.frame hbusy]
  obtain ⟨b, hb, ⟨hoffer, rfl⟩ | ⟨hoffer, hmore, rfl⟩ | ⟨hoffer, hlast, rfl⟩⟩ := h
  · exact ⟨⟨b, hb, .inl ⟨hoffer, rfl⟩⟩, hl.opk, hl.frame, hl.rb0, hl.rb1⟩
  · exact ⟨⟨b, hb, .inr (.inl ⟨hoffer, hmore, rfl⟩)⟩,
      .of_sending (s := s.sentByte b _) hkind (hl.opk hbusy) (hl.frame hbusy)⟩
  · exact ⟨⟨b, hb, .inr (.inr ⟨hoffer, hlast, rfl⟩)⟩, .of_idle rfl⟩

/-- A receive step writes `rb0` or `rb1` before it reads it, and reads no other latch. -/
theorem RecvNext.withLatches (h : RecvNext s t) (hbusy : s.busy = true) (hkind : s.opk = .fbrecv)
    (hl : s.AgreesOnLive l) :
    ∃ l', RecvNext (s.withLatches l) (t.withLatches l') ∧ t.AgreesOnLive l' := by
  rcases h with ⟨hoffer, rfl⟩ | ⟨b, hoffer, ⟨hrxi, rfl⟩ | ⟨hrxi, rfl⟩ | ⟨hrxi, hindex, rfl⟩⟩
  · exact ⟨l, .inl ⟨hoffer, rfl⟩, hl.opk, hl.frame, hl.rb0, hl.rb1⟩
  · exact ⟨{ l with rb0 := b }, .inr ⟨b, hoffer, .inl ⟨hrxi, rfl⟩⟩, hl.opk, hl.frame,
      fun _ _ _ => rfl, fun _ _ (hrxi' : (1 : Fin 3) = 2) => absurd hrxi' (by decide)⟩
  · exact ⟨{ l with rb1 := b }, .inr ⟨b, hoffer, .inr (.inl ⟨hrxi, rfl⟩)⟩, hl.opk, hl.frame,
      fun _ _ _ => hl.rb0 hbusy hkind (by simp [hrxi]), fun _ _ _ => rfl⟩
  · have hrb0 : l.rb0 = s.rb0 := hl.rb0 hbusy hkind (by simp [hrxi])
    have hrb1 : l.rb1 = s.rb1 := hl.rb1 hbusy hkind hrxi
    have hdecoded : decodeFeedback (s.withLatches l).params.rxMask (s.withLatches l).rb0
        (s.withLatches l).rb1 b = decodeFeedback s.params.rxMask s.rb0 s.rb1 b := by simp [hrb0, hrb1]
    refine ⟨l, .inr ⟨b, hoffer, .inr (.inr ⟨hrxi, ?_, ?_⟩)⟩, .of_idle rfl⟩
    · rw [hdecoded]; exact hindex
    · rw [hdecoded]; rfl

/-- An issue latches all the new operation reads. -/
theorem State.issued_withLatches (s : State) (l : Latches) (i : Instr) :
    ∃ l', (s.withLatches l).issued i = (s.issued i).withLatches l' ∧ (s.issued i).AgreesOnLive l' := by
  refine ⟨((s.withLatches l).issued i).latches, ?_⟩
  cases i with
  | move ch pos spd =>
    exact ⟨rfl, .of_sending (by simp [State.issued]) rfl rfl⟩
  | fbreq ch =>
    exact ⟨rfl, .of_sending (by simp [State.issued]) rfl rfl⟩
  | fbrecv =>
    exact ⟨rfl, fun _ => rfl, fun _ => rfl, fun _ _ hrxi => absurd rfl hrxi,
      fun _ _ (hrxi : (0 : Fin 3) = 2) => absurd hrxi (by decide)⟩

/-- An idle block's step reads no latch. -/
theorem step_withLatches_of_idle (hidle : s.busy = false) (h : step s = .next t) :
    ∃ l', step (s.withLatches l) = .next (t.withLatches l') ∧ t.AgreesOnLive l' := by
  rcases step_next h with ⟨hbusy, -⟩ | ⟨hbusy, -⟩ | ⟨-, hp, rfl⟩ | ⟨i, rest, -, hp, rfl⟩ |
    ⟨ch, pos, spd, rest, -, hp, rfl⟩ | ⟨ch, pos, rest, -, hp, hread, rfl⟩ |
    ⟨ch, pos, rest, v, -, hp, hread, hv, rfl⟩
  · rw [hidle] at hbusy; cases hbusy
  · rw [hidle] at hbusy; cases hbusy
  · exact ⟨l, step_of_nil hidle hp, .of_idle hidle⟩
  · obtain ⟨l', hissued, hl'⟩ := (s.withProgram rest).issued_withLatches l i
    refine ⟨l', ?_, hl'⟩
    rw [← hissued, step_of_op (s := s.withLatches l) hidle hp]
    exact exec_idle (s := (s.withLatches l).withProgram rest) hidle i
  · exact ⟨l, step_of_moveWait (s := s.withLatches l) hidle hp, .of_idle hidle⟩
  · exact ⟨l, (step_of_poll (s := s.withLatches l) hidle hp).trans (pollTest_of_arrived hread),
      .of_idle hidle⟩
  · exact ⟨l, (step_of_poll (s := s.withLatches l) hidle hp).trans (pollTest_of_ne hread hv),
      .of_idle hidle⟩

/-- One step of the simulation. -/
theorem step_withLatches (hl : s.AgreesOnLive l) (h : step s = .next t) :
    ∃ l', step (s.withLatches l) = .next (t.withLatches l') ∧ t.AgreesOnLive l' := by
  rcases step_next_busy_or_idle h with ⟨hbusy, hkind, hsend⟩ | ⟨hbusy, hkind, hrecv⟩ | hidle
  · obtain ⟨hsend', hl'⟩ := hsend.withLatches hbusy hkind hl
    exact ⟨l, step_of_sendNext hbusy (by simpa [hl.opk hbusy] using hkind) hsend', hl'⟩
  · obtain ⟨l', hrecv', hl'⟩ := hrecv.withLatches hbusy hkind hl
    exact ⟨l', step_of_recvNext hbusy ((hl.opk hbusy).trans hkind) hrecv', hl'⟩
  · exact step_withLatches_of_idle hidle h

theorem runSteps_withLatches {k : Nat} (hl : s.AgreesOnLive l) (h : runSteps k s = .next t) :
    ∃ l', runSteps k (s.withLatches l) = .next (t.withLatches l') ∧ t.AgreesOnLive l' := by
  induction k generalizing s l with
  | zero => cases h; exact ⟨l, rfl, hl⟩
  | succ k ih =>
    obtain ⟨u, hstep, hrun⟩ := runSteps_succ h
    obtain ⟨l', hstep', hl'⟩ := step_withLatches hl hstep
    rw [runSteps_succ_of_next hstep']
    exact ih hl' hrun

/-! ### What the observation reads -/

theorem Reaches.withLatches {P : State → Prop} (keep : ∀ u m, u.AgreesOnLive m → P u → P (u.withLatches m))
    (hl : s.AgreesOnLive l) (h : Reaches s P) : Reaches (s.withLatches l) P := by
  obtain ⟨k, u, hrun, hu⟩ := h
  obtain ⟨m, hrun', hm⟩ := runSteps_withLatches hl hrun
  exact ⟨k, u.withLatches m, hrun', keep u m hm hu⟩

theorem State.hangs_withLatches (hl : s.AgreesOnLive l) (h : s.hangs) : (s.withLatches l).hangs := by
  obtain ⟨ch, pos, rest, hfails⟩ := h
  refine ⟨ch, pos, rest, fun n => ?_⟩
  obtain ⟨k, u, hk, hrun, hu⟩ := hfails n
  obtain ⟨m, hrun', -⟩ := runSteps_withLatches hl hrun
  exact ⟨k, u.withLatches m, hk, hrun', hu⟩

/-- The outcomes speak of the operation in progress by its kind, which both states hold. -/
theorem State.comesTo_withLatches (hl : s.AgreesOnLive l) {o : RunOutcome} (h : s.comesTo o) :
    (s.withLatches l).comesTo o := by
  cases o with
  | completes => exact Reaches.withLatches (fun _ _ _ hu => hu) hl h
  | stuckInSend =>
    exact Reaches.withLatches
      (fun _ _ hm ⟨hbusy, hkind, hnever⟩ => ⟨hbusy, (hm.opk hbusy).trans_ne hkind, hnever⟩) hl h
  | stuckInRecv =>
    exact Reaches.withLatches
      (fun _ _ hm ⟨hbusy, hkind, hnever⟩ => ⟨hbusy, (hm.opk hbusy).trans hkind, hnever⟩) hl h
  | hangs => exact State.hangs_withLatches hl h

theorem State.observe_withLatches (hl : s.AgreesOnLive l) : (s.withLatches l).observe = s.observe := by
  have hcomes : (s.withLatches l).comesTo = s.comesTo := by
    funext o
    exact propext ⟨fun h => by simpa using State.comesTo_withLatches hl.symm h,
      State.comesTo_withLatches hl⟩
  simp only [State.observe, hcomes]
  rfl

end Simulation

/-- Settles O48: an idle block reads no latch, so the simulation starts, and it keeps the observation. -/
theorem idleLatchesAreUnobservable : Obligations.IdleLatchesAreUnobservable := by
  intro s t k hidle hlatches s' hrun
  have ht : t = s.withLatches t.latches := hlatches
  obtain ⟨l', hrun', hl'⟩ := runSteps_withLatches (l := t.latches) (.of_idle hidle) hrun
  exact ⟨s'.withLatches l', by rw [ht]; exact hrun', State.observe_withLatches hl'⟩

end Sys2Proof.Machine
end

section
/-! PROOFS. The table index of a byte is the byte under the mask, read as a number (20_memory.md R50). -/

namespace Sys2Proof.Machine

theorem tableIndex_eq_iff (m : RxMask) (a b : Byte) :
    tableIndex m a = tableIndex m b ↔ decodeChannel m a = decodeChannel m b := BitVec.toNat_inj

/-- Settles O49: an index is a masked byte read as a number, and no two bytes read as one number. Channel 16
is bit 4 alone, which `0x0F` drops and `0x1F` keeps. -/
theorem aliasingFollowsTheMask : Obligations.AliasingFollowsTheMask := by
  refine ⟨tableIndex_eq_iff, ?dropped, ?kept⟩
  case dropped => decide
  case kept => decide

end Sys2Proof.Machine
end

section
/-! PROOFS. Command frames byte by byte: a byte is two tag bits and a sextet, so each field can be read back
from its byte and each byte rebuilt from its field (30_encoding.md R61, R62, R66). -/

namespace Sys2Proof.Machine

/-! ### Tag and sextet -/

/-- A byte is its tag bits and its sextet (R66). -/
theorem byte_eq_of_tagBits_of_sextet {a b : Byte} (htag : tagBits a = tagBits b)
    (hsextet : ∀ i < 6, a.getLsbD i = b.getLsbD i) : a = b := by
  obtain ⟨h6, h7⟩ := tagBits_eq_iff.mp htag
  refine BitVec.eq_of_getLsbD_eq fun i hi => ?_
  rcases Nat.lt_or_ge i 6 with hlt | hge
  · exact hsextet i hlt
  · interval_cases i
    · simpa [tagBits] using h6
    · simpa [tagBits] using h7

theorem tagBits_append (tag : BitVec 2) (field : BitVec 6) : tagBits (tag ++ field) = tag := by
  rw [tagBits_eq_iff, BitVec.getLsbD_append, BitVec.getLsbD_append]
  exact ⟨rfl, rfl⟩

theorem byte_eq_append_iff {b : Byte} {tag : BitVec 2} {field : BitVec 6} :
    b = tag ++ field ↔ tagBits b = tag ∧ ∀ i < 6, b.getLsbD i = field.getLsbD i := by
  have hfield : ∀ i < 6, (tag ++ field).getLsbD i = field.getLsbD i := fun i hi => by
    rw [BitVec.getLsbD_append, if_pos hi]
  constructor
  · rintro rfl
    exact ⟨tagBits_append tag field, hfield⟩
  · intro ⟨htag, hsextet⟩
    exact byte_eq_of_tagBits_of_sextet (htag.trans (tagBits_append tag field).symm)
      fun i hi => (hsextet i hi).trans (hfield i hi).symm

theorem isChannelByte_iff_tagBits {b : Byte} : isChannelByte b = true ↔ tagBits b = 0b01#2 := beq_iff_eq

theorem isSextetByte_iff_tagBits {b : Byte} : isSextetByte b = true ↔ tagBits b = 0b00#2 := beq_iff_eq

theorem sextetByte_ext {a b : Byte} (ha : isSextetByte a = true) (hb : isSextetByte b = true)
    (hsextet : ∀ i < 6, a.getLsbD i = b.getLsbD i) : a = b :=
  byte_eq_of_tagBits_of_sextet
    ((isSextetByte_iff_tagBits.mp ha).trans (isSextetByte_iff_tagBits.mp hb).symm) hsextet

theorem getLsbD_of_isSextetByte {b : Byte} (h : isSextetByte b = true) {i : Nat} (hi : 6 ≤ i) :
    b.getLsbD i = false := by
  obtain ⟨h6, h7⟩ := isSextetByte_iff.mp h
  rcases Nat.lt_or_ge i 8 with hlt | hge
  · interval_cases i
    · exact h6
    · exact h7
  · exact BitVec.getLsbD_of_ge _ _ hge

theorem getLsbD_sextetOf (b : Byte) (i : Nat) :
    (sextetOf b).getLsbD i = (decide (i < 6) && b.getLsbD i) := getLsbD_spdByte b i

/-! ### The bytes of a frame, bit by bit -/

theorem tagCh_eq_append (ch : Byte) : tagCh ch = 0b01#2 ++ ch.extractLsb' 0 6 :=
  byte_eq_append_iff.mpr ⟨isChannelByte_iff_tagBits.mp (isChannelByte_tagCh ch),
    fun i hi => by simp [getLsbD_tagCh, hi, Nat.ne_of_lt hi]⟩

theorem posHi_eq_append (pos : Word) : posHi pos = 0b00#2 ++ pos.extractLsb' 6 6 :=
  byte_eq_append_iff.mpr ⟨isSextetByte_iff_tagBits.mp (isSextetByte_posHi pos),
    fun i hi => by simp [getLsbD_posHi, hi]⟩

theorem posLo_eq_append (pos : Word) : posLo pos = 0b00#2 ++ pos.extractLsb' 0 6 :=
  byte_eq_append_iff.mpr ⟨isSextetByte_iff_tagBits.mp (isSextetByte_posLo pos),
    fun i hi => by simp [getLsbD_posLo, hi]⟩

theorem spdByte_eq_append (spd : Byte) : spdByte spd = 0b00#2 ++ spd.extractLsb' 0 6 :=
  byte_eq_append_iff.mpr ⟨isSextetByte_iff_tagBits.mp (isSextetByte_spdByte spd),
    fun i hi => by simp [getLsbD_spdByte, hi]⟩

/-- Settles O3: each byte of the two frames is a builder's, and a builder writes tag bits before field bits. -/
theorem commandFramesHaveTheirFormat : Obligations.CommandFramesHaveTheirFormat := by
  refine ⟨fun ch pos spd => ?_, fun ch => ?_⟩
  · rw [encodeMove, tagCh_eq_append, posHi_eq_append, posLo_eq_append, spdByte_eq_append]
  · rw [encodeFbReq, tagCh_eq_append, fbreqLead]

/-! ### The fields, read back from the bytes -/

theorem sextetOf_tagCh (ch : Byte) : sextetOf (tagCh ch) = ch &&& 0x3F#8 := by
  refine BitVec.eq_of_getLsbD_eq (y := sextetOf ch) fun i _ => ?_
  rw [getLsbD_sextetOf, getLsbD_sextetOf, getLsbD_tagCh]
  by_cases hi : i < 6
  · simp [hi, Nat.ne_of_lt hi]
  · simp [hi]

theorem sextetOf_spdByte (spd : Byte) : sextetOf (spdByte spd) = spd &&& 0x3F#8 := by
  rw [sextetOf, spdByte, BitVec.and_assoc, BitVec.and_self]

theorem positionOf_posHi_posLo (pos : Word) :
    positionOf (posHi pos) (posLo pos) = pos &&& 0x0FFF#16 := by
  refine BitVec.eq_of_getLsbD_eq fun i hi => ?_
  rw [getLsbD_positionOf, getLsbD_posHi, getLsbD_posLo, BitVec.getLsbD_and]
  interval_cases i <;> simp

/-! ### The bytes, rebuilt from the fields -/

theorem tagCh_sextetOf {b : Byte} (h : isChannelByte b = true) : tagCh (sextetOf b) = b :=
  byte_eq_of_tagBits_of_sextet
    ((isChannelByte_iff_tagBits.mp (isChannelByte_tagCh _)).trans (isChannelByte_iff_tagBits.mp h).symm)
    fun i hi => by simp [getLsbD_tagCh, getLsbD_sextetOf, hi, Nat.ne_of_lt hi]

theorem spdByte_sextetOf {b : Byte} (h : isSextetByte b = true) : spdByte (sextetOf b) = b :=
  sextetByte_ext (isSextetByte_spdByte _) h fun i hi => by simp [getLsbD_spdByte, getLsbD_sextetOf, hi]

/-- The low byte of the position must be a sextet, or its tag would run into the high byte's bits. -/
theorem posHi_positionOf {b1 b2 : Byte} (h1 : isSextetByte b1 = true) (h2 : isSextetByte b2 = true) :
    posHi (positionOf b1 b2) = b1 :=
  sextetByte_ext (isSextetByte_posHi _) h1 fun i hi => by
    have hlow : b2.getLsbD (6 + i) = false := getLsbD_of_isSextetByte h2 (Nat.le_add_right 6 i)
    have hin : 6 + i < 16 := by omega
    rw [getLsbD_posHi, getLsbD_positionOf, hlow]
    simp [hi, hin]

theorem posLo_positionOf (b1 : Byte) {b2 : Byte} (h2 : isSextetByte b2 = true) :
    posLo (positionOf b1 b2) = b2 :=
  sextetByte_ext (isSextetByte_posLo _) h2 fun i hi => by
    have hin : i < 16 := by omega
    rw [getLsbD_posLo, getLsbD_positionOf]
    simp [hi, hin]

/-! ### Well-formed frames are the frames that are sent -/

theorem wfM4_iff {b0 b1 b2 b3 : Byte} : wfM4 b0 b1 b2 b3 = true ↔
    isChannelByte b0 = true ∧ isSextetByte b1 = true ∧ isSextetByte b2 = true ∧ isSextetByte b3 = true := by
  simp only [wfM4, Bool.and_eq_true, and_assoc]

theorem wfQ2_iff {b0 b1 : Byte} : wfQ2 b0 b1 = true ↔ b0 = fbreqLead ∧ isChannelByte b1 = true := by
  simp only [wfQ2, Bool.and_eq_true, beq_iff_eq]

theorem wfM4_encodeMove (ch : Byte) (pos : Word) (spd : Byte) :
    wfM4 (tagCh ch) (posHi pos) (posLo pos) (spdByte spd) = true :=
  wfM4_iff.mpr ⟨isChannelByte_tagCh ch, isSextetByte_posHi pos, isSextetByte_posLo pos,
    isSextetByte_spdByte spd⟩

theorem wfQ2_encodeFbReq (ch : Byte) : wfQ2 fbreqLead (tagCh ch) = true :=
  wfQ2_iff.mpr ⟨rfl, isChannelByte_tagCh ch⟩

theorem encodeMove_of_wfM4 {b0 b1 b2 b3 : Byte} (h : wfM4 b0 b1 b2 b3 = true) :
    encodeMove (sextetOf b0) (positionOf b1 b2) (sextetOf b3) = [b0, b1, b2, b3] := by
  obtain ⟨h0, h1, h2, h3⟩ := wfM4_iff.mp h
  rw [encodeMove, tagCh_sextetOf h0, posHi_positionOf h1 h2, posLo_positionOf b1 h2, spdByte_sextetOf h3]

theorem encodeFbReq_of_wfQ2 {b0 b1 : Byte} (h : wfQ2 b0 b1 = true) :
    encodeFbReq (sextetOf b1) = [b0, b1] := by
  obtain ⟨rfl, h1⟩ := wfQ2_iff.mp h
  rw [encodeFbReq, tagCh_sextetOf h1]

end Sys2Proof.Machine
end

section
/-! PROOFS. Decode and encode: what the decoder reads from each format, and that each inverts the other
(30_encoding.md R68, 40_encode.md R102). -/

namespace Sys2Proof

open Sys2Proof.Machine

/-! ### The decoder, format by format -/

theorem decode_four_of_wfM4 {b0 b1 b2 b3 : Byte} (h : wfM4 b0 b1 b2 b3 = true) :
    decode [b0, b1, b2, b3] = .ok (.move (sextetOf b0) (positionOf b1 b2) (sextetOf b3)) := if_pos h

theorem decode_two_of_wfQ2 {b0 b1 : Byte} (h : wfQ2 b0 b1 = true) :
    decode [b0, b1] = .ok (.fbreq (sextetOf b1)) := if_pos h

/-- Everything the decoder reads: an M4 frame, a Q2 frame, or three bytes (R68, R69). -/
theorem decode_eq_ok {bs : List Byte} {i : Instr} (h : decode bs = .ok i) :
    (∃ b0 b1 b2 b3, bs = [b0, b1, b2, b3] ∧ wfM4 b0 b1 b2 b3 = true ∧
      i = .move (sextetOf b0) (positionOf b1 b2) (sextetOf b3)) ∨
    (∃ b0 b1, bs = [b0, b1] ∧ wfQ2 b0 b1 = true ∧ i = .fbreq (sextetOf b1)) ∨
    (∃ b0 b1 b2, bs = [b0, b1, b2] ∧ i = .fbrecv) := by
  unfold decode at h
  split at h
  next b0 b1 b2 b3 =>
    split at h
    next hwf => exact .inl ⟨b0, b1, b2, b3, rfl, hwf, by cases h; rfl⟩
    next => cases h
  next b0 b1 =>
    split at h
    next hwf => exact .inr (.inl ⟨b0, b1, rfl, hwf, by cases h; rfl⟩)
    next => cases h
  next b0 b1 b2 => exact .inr (.inr ⟨b0, b1, b2, rfl, by cases h; rfl⟩)
  next => cases h

/-! ### Decode after encode -/

/-- A receiver reads back every operand cut to its field, whatever the operand (R102). -/
theorem decode_encode (i : Instr) : decode (encode i) = .ok i.truncate := by
  cases i with
  | move ch pos spd =>
    rw [encode, encodeMove, decode_four_of_wfM4 (wfM4_encodeMove ch pos spd), sextetOf_tagCh,
      positionOf_posHi_posLo, sextetOf_spdByte, Instr.truncate]
  | fbreq ch =>
    rw [encode, encodeFbReq, decode_two_of_wfQ2 (wfQ2_encodeFbReq ch), sextetOf_tagCh, Instr.truncate]
  | fbrecv => rfl

/-! ### Operands that fit their fields -/

theorem and_sextet_of_chFits {b : Byte} (h : chFits b = true) : b &&& 0x3F#8 = b := by
  refine BitVec.eq_of_toNat_eq ?_
  rw [BitVec.toNat_and]
  exact Nat.and_two_pow_sub_one_of_lt_two_pow (n := 6) (of_decide_eq_true h)

theorem and_field_of_posFits {pos : Word} (h : posFits pos = true) : pos &&& 0x0FFF#16 = pos := by
  refine BitVec.eq_of_toNat_eq ?_
  rw [BitVec.toNat_and]
  exact Nat.and_two_pow_sub_one_of_lt_two_pow (n := 12) (of_decide_eq_true h)

theorem Instr.truncate_wellFormed (i : Instr) : i.truncate.wellFormed = true := by
  cases i with
  | move ch pos spd => exact Laws.TruncatedFits.move ch pos spd
  | fbreq ch => exact Laws.TruncatedFits.fbreq ch
  | fbrecv => exact Laws.TruncatedFits.fbrecv

/-- Truncation leaves exactly the well-formed operations as they are (R64). -/
theorem Instr.wellFormed_iff_truncate_eq {i : Instr} : i.wellFormed = true ↔ i.truncate = i := by
  refine ⟨fun h => ?_, fun h => h ▸ i.truncate_wellFormed⟩
  cases i with
  | move ch pos spd =>
    simp only [Instr.wellFormed, Bool.and_eq_true] at h
    obtain ⟨⟨hch, hpos⟩, hspd⟩ := h
    rw [Instr.truncate, and_sextet_of_chFits hch, and_field_of_posFits hpos, and_sextet_of_chFits hspd]
  | fbreq ch => rw [Instr.truncate, and_sextet_of_chFits h]
  | fbrecv => rfl

/-! ### Encode after decode -/

theorem encode_of_decode {bs : List Byte} {i : Instr} (h : decode bs = .ok i) (hi : i ≠ .fbrecv) :
    encode i = bs := by
  rcases decode_eq_ok h with ⟨b0, b1, b2, b3, rfl, hwf, rfl⟩ | ⟨b0, b1, rfl, hwf, rfl⟩ | ⟨-, -, -, -, rfl⟩
  · exact encodeMove_of_wfM4 hwf
  · exact encodeFbReq_of_wfQ2 hwf
  · exact absurd rfl hi

/-- Settles O6: decoding a frame that was sent cuts the operation to its fields. A well-formed operation is
cut nowhere, and a command that was read is not either, for its frame decodes both to it and to its cut. -/
theorem decodeEncodeAgree : Obligations.DecodeEncodeAgree := by
  refine ⟨fun i hwf => ?_, fun bs i hdecode hi => ?_⟩
  · rw [decode_encode, Instr.wellFormed_iff_truncate_eq.mp hwf]
  · have hencode : encode i = bs := encode_of_decode hdecode hi
    have hcut : decode bs = .ok i.truncate := hencode ▸ decode_encode i
    exact ⟨hencode, Instr.wellFormed_iff_truncate_eq.mpr (Except.ok.inj (hcut.symm.trans hdecode))⟩

/-! ### The reference frames -/

/-- Settles O1: the seven words, decoded. -/
theorem referenceFramesDecode : Obligations.ReferenceFramesDecode := by
  unfold Obligations.ReferenceFramesDecode
  decide

end Sys2Proof
end

section
/-! PROOFS. A TX stream read back (30_encoding.md R72): each frame is read off the front of the stream by its
second byte's tag, whatever bytes follow it. -/

namespace Sys2Proof

open Sys2Proof.Machine

/-- The second byte of MOVE's frame is a position byte and that of FBREQ's a channel byte, so the reader takes
the right number of bytes. -/
theorem nextCommand_encode_append {i : Instr} (hi : i ≠ .fbrecv) (rest : List Byte) :
    nextCommand (encode i ++ rest) = .ok (i.truncate, rest) := by
  cases i with
  | move ch pos spd =>
    have htag : isChannelByte (posHi pos) = false :=
      not_isChannelByte_of_isSextetByte (isSextetByte_posHi pos)
    have hframe : decode [tagCh ch, posHi pos, posLo pos, spdByte spd] =
        .ok (Instr.truncate (.move ch pos spd)) :=
      decode_encode (.move ch pos spd)
    simp [encode, encodeMove, nextCommand, htag, hframe, Except.map]
  | fbreq ch =>
    have hframe : decode [fbreqLead, tagCh ch] = .ok (Instr.truncate (.fbreq ch)) :=
      decode_encode (.fbreq ch)
    simp [encode, encodeFbReq, nextCommand, isChannelByte_tagCh, hframe, Except.map]
  | fbrecv => exact absurd rfl hi

theorem parseTxUpTo_of_nextCommand {bs rest : List Byte} {i : Instr} (h : nextCommand bs = .ok (i, rest))
    (n : Nat) : parseTxUpTo (n + 1) bs = (parseTxUpTo n rest).map (i :: ·) := by
  cases bs with
  | nil => cases h
  | cons b bs => simp [parseTxUpTo, h]

/-- As many frames are read as were sent, if the bound allows for them. -/
theorem parseTxUpTo_flatMap_encode {is : List Instr} (his : ∀ i ∈ is, i ≠ .fbrecv) {n : Nat}
    (hn : is.length ≤ n) : parseTxUpTo n (is.flatMap encode) = .ok (is.map Instr.truncate) := by
  induction is generalizing n with
  | nil => cases n <;> rfl
  | cons i is ih =>
    obtain ⟨hi, his⟩ := List.forall_mem_cons.mp his
    obtain ⟨m, rfl⟩ : ∃ m, n = m + 1 := ⟨n - 1, by simp at hn; omega⟩
    have hrest : parseTxUpTo m (is.flatMap encode) = .ok (is.map Instr.truncate) :=
      ih his (Nat.le_of_succ_le_succ hn)
    rw [List.flatMap_cons, parseTxUpTo_of_nextCommand (nextCommand_encode_append hi _), hrest]
    rfl

theorem encode_length_pos (i : Instr) : 0 < (encode i).length := by cases i <;> exact Nat.succ_pos _

theorem length_le_length_flatMap_encode (is : List Instr) : is.length ≤ (is.flatMap encode).length := by
  induction is with
  | nil => exact Nat.le_refl 0
  | cons i is ih =>
    have hi := encode_length_pos i
    simp only [List.flatMap_cons, List.length_append, List.length_cons]
    omega

/-- Settles O8: no frame is empty, so the stream's length bounds the number of its frames. -/
theorem txStreamParses : Obligations.TxStreamParses := fun is his =>
  parseTxUpTo_flatMap_encode his (length_le_length_flatMap_encode is)

end Sys2Proof
end

section
/-! PROOFS. A frame as one integer (30_encoding.md R67, R75): the opcode table's mask and match hold of a word
exactly if they hold of it byte by byte, and there they are the tags of R68. -/

namespace Sys2Proof

open Sys2Proof.Machine

/-! ### Words byte by byte -/

/-- A word of `n` bytes is its bytes. -/
theorem word_eq_iff_bytes {n : Nat} {x y : BitVec (8 * n)} :
    x = y ↔ ∀ k < n, x.extractLsb' (8 * k) 8 = y.extractLsb' (8 * k) 8 := by
  refine ⟨fun h k _ => h ▸ rfl, fun h => BitVec.eq_of_getLsbD_eq fun i hi => ?_⟩
  have hbit := congrArg (·.getLsbD (i % 8)) (h (i / 8) (by omega))
  have hlt : i % 8 < 8 := Nat.mod_lt i (by decide)
  simpa [hlt, Nat.div_add_mod] using hbit

theorem mask_match_iff_bytes {n : Nat} {w mask value : BitVec (8 * n)} :
    w &&& mask = value ↔ ∀ k < n, w.extractLsb' (8 * k) 8 &&& mask.extractLsb' (8 * k) 8 =
      value.extractLsb' (8 * k) 8 := by
  simp only [word_eq_iff_bytes, BitVec.extractLsb'_and]

/-! ### Tags under a byte's mask -/

theorem tagBits_eq_iff_mask {b : Byte} {v : BitVec 2} : tagBits b = v ↔ b &&& 0xC0#8 = v ++ 0#6 := by
  have hclear : ∀ i < 6, (b &&& 0xC0#8).getLsbD i = (0#6).getLsbD i := fun i hi => by
    interval_cases i <;> simp
  rw [byte_eq_append_iff, and_iff_left hclear, tagBits_eq_iff, tagBits_eq_iff]
  simp

theorem isChannelByte_iff_mask {b : Byte} : isChannelByte b = true ↔ b &&& 0xC0#8 = 0x40#8 :=
  isChannelByte_iff_tagBits.trans tagBits_eq_iff_mask

theorem isSextetByte_iff_mask {b : Byte} : isSextetByte b = true ↔ b &&& 0xC0#8 = 0x00#8 :=
  isSextetByte_iff_tagBits.trans tagBits_eq_iff_mask

/-! ### The words of the three formats -/

theorem decodeTableWord_32 (w : BitVec 32) : decodeTableWord 32 w.toNat =
    (decode [w.extractLsb' 24 8, w.extractLsb' 16 8, w.extractLsb' 8 8, w.extractLsb' 0 8]).toOption := rfl

theorem decodeTableWord_16 (w : BitVec 16) : decodeTableWord 16 w.toNat =
    (decode [w.extractLsb' 8 8, w.extractLsb' 0 8]).toOption := rfl

theorem decodeTableWord_24 (w : BitVec 24) : decodeTableWord 24 w.toNat = some .fbrecv := rfl

theorem isSome_decode_four_iff {b0 b1 b2 b3 : Byte} :
    (decode [b0, b1, b2, b3]).toOption.isSome = true ↔ wfM4 b0 b1 b2 b3 = true := by
  cases h : wfM4 b0 b1 b2 b3 <;> simp [decode, h, Except.toOption]

theorem isSome_decode_two_iff {b0 b1 : Byte} :
    (decode [b0, b1]).toOption.isSome = true ↔ wfQ2 b0 b1 = true := by
  cases h : wfQ2 b0 b1 <;> simp [decode, h, Except.toOption]

theorem m4_mask_iff (w : BitVec 32) : w &&& 0xC0C0C0C0#32 = 0x40000000#32 ↔
    wfM4 (w.extractLsb' 24 8) (w.extractLsb' 16 8) (w.extractLsb' 8 8) (w.extractLsb' 0 8) = true := by
  rw [wfM4_iff, isChannelByte_iff_mask, isSextetByte_iff_mask, isSextetByte_iff_mask, isSextetByte_iff_mask,
    mask_match_iff_bytes (n := 4)]
  refine ⟨fun h => ⟨h 3 (by decide), h 2 (by decide), h 1 (by decide), h 0 (by decide)⟩, ?_⟩
  intro ⟨h3, h2, h1, h0⟩ k hk
  match k, hk with
  | 0, _ => exact h0
  | 1, _ => exact h1
  | 2, _ => exact h2
  | 3, _ => exact h3

theorem q2_mask_iff (w : BitVec 16) : w &&& 0xFFC0#16 = 0x4040#16 ↔
    wfQ2 (w.extractLsb' 8 8) (w.extractLsb' 0 8) = true := by
  have hlead : w.extractLsb' 8 8 &&& 0xFF#8 = w.extractLsb' 8 8 := BitVec.and_allOnes
  rw [wfQ2_iff, isChannelByte_iff_mask, ← hlead, mask_match_iff_bytes (n := 2)]
  refine ⟨fun h => ⟨h 1 (by decide), h 0 (by decide)⟩, ?_⟩
  intro ⟨h1, h0⟩ k hk
  match k, hk with
  | 0, _ => exact h0
  | 1, _ => exact h1

/-- Settles O7: the masks hold exactly of the words whose bytes are a well-formed frame, and a frame is
refused for no other reason. -/
theorem tableMasksDecide : Obligations.TableMasksDecide := by
  refine ⟨fun w => ?_, fun w => ?_, decodeTableWord_24⟩
  · rw [decodeTableWord_32, isSome_decode_four_iff, m4_mask_iff]
  · rw [decodeTableWord_16, isSome_decode_two_iff, q2_mask_iff]

end Sys2Proof
end

section
/-! PROOFS. The bytes on the line: only bytes of command frames are sent, and these have bit 7 clear
(30_encoding.md R70). -/

namespace Sys2Proof.Machine

theorem lt_0x80_of_isChannelByte {b : Byte} (h : isChannelByte b = true) : b.toNat < 0x80 :=
  BitVec.toNat_lt_of_msb_false ((BitVec.msb_eq_getLsbD_last b).trans (isChannelByte_iff.mp h).2)

theorem lt_0x80_of_isSextetByte {b : Byte} (h : isSextetByte b = true) : b.toNat < 0x80 :=
  BitVec.toNat_lt_of_msb_false ((BitVec.msb_eq_getLsbD_last b).trans (isSextetByte_iff.mp h).2)

/-- Every byte of a command frame is a channel byte, a sextet or the lead (R70). -/
theorem State.frame_lt_0x80 (s : State) : ∀ b ∈ s.frame, b.toNat < 0x80 := by
  unfold State.frame
  cases s.opk with
  | move =>
    simp only [encodeMove, List.forall_mem_cons]
    exact ⟨lt_0x80_of_isChannelByte (isChannelByte_tagCh _), lt_0x80_of_isSextetByte (isSextetByte_posHi _),
      lt_0x80_of_isSextetByte (isSextetByte_posLo _), lt_0x80_of_isSextetByte (isSextetByte_spdByte _),
      List.forall_mem_nil _⟩
  | fbreq =>
    simp only [encodeFbReq, List.forall_mem_cons]
    exact ⟨by decide, lt_0x80_of_isChannelByte (isChannelByte_tagCh _), List.forall_mem_nil _⟩
  | fbrecv => exact List.forall_mem_nil _

/-- A step leaves the TX history or appends one byte of the frame in progress (R52). -/
theorem step_txHist {s t : State} (h : step s = .next t) :
    t.txHist = s.txHist ∨ ∃ b ∈ s.frame, t.txHist = s.txHist ++ [b] := by
  rcases step_next_busy_or_idle h with ⟨-, -, hsend⟩ | ⟨-, -, hrecv⟩ | hidle
  · obtain ⟨-, -, -, -, -, -, -, -, -, -, -, -, -, hhist⟩ := hsend.rest
    exact hhist
  · obtain ⟨-, -, -, -, -, -, hhist, -⟩ := hrecv.rest
    exact .inl hhist
  · obtain ⟨-, -, hhist, -⟩ := step_rest_of_idle hidle h
    exact .inl hhist

/-- Settles O43: the byte a step appends, if any, is a byte of a command frame. -/
theorem sentBytesHaveBitSevenClear : Obligations.SentBytesHaveBitSevenClear := by
  intro s t hs h
  rcases step_txHist h with hhist | ⟨b, hb, hhist⟩
  · exact ⟨hhist ▸ hs, .inl hhist⟩
  · refine ⟨fun c hc => ?_, .inr ⟨b, hhist⟩⟩
    rw [hhist, List.mem_append, List.mem_singleton] at hc
    rcases hc with hc | rfl
    · exact hs c hc
    · exact s.frame_lt_0x80 c hb

end Sys2Proof.Machine
end

section
/-! PROOFS. A frame placed by `withFetchWord` as the host's next operation (log entries 11 and 14). -/

namespace Sys2Proof.Machine

theorem State.withFetchWord_of_decode {nbits w : Nat} {i : Instr} (h : decodeTableWord nbits w = some i)
    (s : State) : s.withFetchWord nbits w = placeOperation i (bytesOfWord (nbits / 8) w) s := by
  simp [State.withFetchWord, placeWord, h]

theorem step_placeOperation_of_ne_fbrecv {i : Instr} (hi : i ≠ .fbrecv) (frame : List Byte) (s : State) :
    step (placeOperation i frame s) = exec i s.idled := by
  cases i with
  | move ch pos spd => exact step_of_op rfl rfl
  | fbreq ch => exact step_of_op rfl rfl
  | fbrecv => exact absurd rfl hi

theorem step_placeOperation_fbrecv (frame : List Byte) (s : State) :
    step (placeOperation .fbrecv frame s) = exec .fbrecv (s.idled.supplied frame) := step_of_op rfl rfl

/-- Settles O27: the placed operation is the idle block's next one, so the step executes it and gives back
the host's program. -/
theorem fetchWordRunsTheDecodedOperation : Obligations.FetchWordRunsTheDecodedOperation := by
  intro s nbits w i hdecode
  rw [State.withFetchWord_of_decode hdecode]
  refine ⟨fun hi => step_placeOperation_of_ne_fbrecv hi _ s, ?_⟩
  rintro rfl
  exact step_placeOperation_fbrecv _ s

end Sys2Proof.Machine
end

section
/-! PROOFS. The four byte builders in front of their tags, and the command encoder at the bytes' level: it
cannot fail, and a receiver reads back what was sent (40_encode.md R90 to R93, R102, R103). -/

namespace Sys2Proof.Machine

/-! ### The document's unmasked channel byte -/

theorem getElem_seven_eq_false_iff {b : Byte} : b[7] = false ↔ b.toNat < 128 :=
  (Bool.eq_false_iff.trans (not_congr (BitVec.msb_eq_true_iff_two_mul_ge (x := b)))).trans (by omega)

/-- The two formulas differ in bit 7 alone, which only the masked one clears (R90). -/
theorem tagCh_eq_or_iff {ch : Byte} : tagCh ch = ch ||| 0x40#8 ↔ ch.toNat < 128 := by
  rw [← getElem_seven_eq_false_iff]
  constructor
  · intro h
    have hbit : (ch ||| 0x40#8).getLsbD 7 = (tagCh ch).getLsbD 7 := congrArg (·.getLsbD 7) h.symm
    rw [getLsbD_tagCh, BitVec.getLsbD_or] at hbit
    simpa using hbit
  · intro h7
    refine BitVec.eq_of_getLsbD_eq fun i hi => ?_
    rw [getLsbD_tagCh, BitVec.getLsbD_or]
    interval_cases i <;> simp [h7]

/-- Settles O2: the formulas are the definitions, and the bits are tag bits before field bits. -/
theorem byteBuildersAreBitExact : Obligations.ByteBuildersAreBitExact := by
  refine ⟨fun ch => ⟨rfl, tagCh_eq_append ch, tagCh_eq_or_iff.mpr, fun hge heq => ?_⟩,
    fun pos => ⟨rfl, posHi_eq_append pos⟩, fun pos => ⟨rfl, posLo_eq_append pos⟩,
    fun spd => ⟨rfl, spdByte_eq_append spd⟩⟩
  exact absurd (tagCh_eq_or_iff.mp heq) (Nat.not_lt.mpr hge)

/-! ### Frames are well-formed, and read back -/

/-- Settles O4: the builders' tags are those of the formats, and an idle block issues any operation. -/
theorem encoderCannotFail : Obligations.EncoderCannotFail := by
  refine ⟨fun ch pos spd => ⟨?_, ?_⟩, fun s ch pos spd hidle => ⟨?_, ?_⟩⟩
  · exact ⟨_, _, _, _, rfl, wfM4_encodeMove ch pos spd⟩
  · exact ⟨_, _, rfl, wfQ2_encodeFbReq ch⟩
  · exact ⟨_, exec_move_idle hidle ch pos spd⟩
  · exact ⟨_, exec_fbreq_idle hidle ch⟩

/-- A byte with tag `00` is its own sextet. -/
theorem sextetOf_of_isSextetByte {b : Byte} (h : isSextetByte b = true) : sextetOf b = b :=
  sextetByte_ext (isSextetByte_spdByte b) h fun i hi => by simp [getLsbD_sextetOf, hi]

/-- Settles O5: the decoder takes the sextets of a well-formed frame, of which the speed byte is its own;
and decoding a frame that was sent cuts each operand to its field. -/
theorem commandFramesReadBack : Obligations.CommandFramesReadBack := by
  refine ⟨fun b0 b1 b2 b3 hwf => ?_, fun b1 hwf => decode_two_of_wfQ2 hwf,
    fun ch pos spd => decode_encode (.move ch pos spd), fun ch => decode_encode (.fbreq ch)⟩
  obtain ⟨-, -, -, h3⟩ := wfM4_iff.mp hwf
  rw [decode_four_of_wfM4 hwf, sextetOf_of_isSextetByte h3, sextetOf, positionOf]

end Sys2Proof.Machine
end

section
/-! PROOFS. One byte step of a send: what it appends to the TX history, and what it leaves alone
(40_encode.md R95, R98, R99, R101). -/

namespace Sys2Proof.Machine

/-! ### A send step, by the transport's answer and the place of the byte -/

section SendStep
variable {frame : List Byte} {s : State} {b : Byte}

theorem sendStep_of_refused (hb : frame[s.txi.val]? = some b) (hoffer : (txOffer s).1 = false) :
    sendStep frame s = .next (s.sendWaited (txOffer s).2) :=
  sendStep_next.mpr ⟨b, hb, .inl ⟨hoffer, rfl⟩⟩

theorem sendStep_of_more (hb : frame[s.txi.val]? = some b) (hoffer : (txOffer s).1 = true)
    (hmore : s.txi.val + 1 < frame.length) : sendStep frame s = .next (s.sentByte b (txOffer s).2) :=
  sendStep_next.mpr ⟨b, hb, .inr (.inl ⟨hoffer, hmore, rfl⟩)⟩

theorem sendStep_of_last (hb : frame[s.txi.val]? = some b) (hoffer : (txOffer s).1 = true)
    (hlast : frame.length ≤ s.txi.val + 1) : sendStep frame s = .next (s.sentLast b (txOffer s).2) :=
  sendStep_next.mpr ⟨b, hb, .inr (.inr ⟨hoffer, hlast, rfl⟩)⟩

end SendStep

/-- Settles O17: a MOVE in progress takes a send step of its frame of four bytes. -/
theorem moveSendsOneByte : Obligations.MoveSendsOneByte := by
  rintro s _ _ _ b hbusy hkind rfl rfl rfl hb
  rw [exec_move_resume hbusy hkind]
  exact ⟨fun hoffer hmore => sendStep_of_more hb hoffer (Nat.succ_lt_succ hmore),
    fun hoffer hlast => sendStep_of_last hb hoffer (Nat.succ_le_succ hlast.ge), sendStep_of_refused hb⟩

/-- Settles O18: an FBREQ in progress takes a send step of its frame of two bytes. -/
theorem fbreqSendsOneByte : Obligations.FbreqSendsOneByte := by
  rintro s _ b hbusy hkind rfl hb
  rw [exec_fbreq_resume hbusy hkind]
  refine ⟨fun hoffer hfirst => ?_, fun hoffer hlast => ?_, sendStep_of_refused hb⟩
  · have htxi : s.txi = 0 := Fin.ext hfirst
    rw [sendStep_of_more hb hoffer (by rw [hfirst, encodeFbReq_length]; decide), State.sentByte, htxi]
    rfl
  · exact sendStep_of_last hb hoffer (Nat.succ_le_succ hlast.ge)

/-! ### The frame sent is the operation's encoding -/

/-- A sender in progress sends the encoding of its operation (R95, R98). -/
theorem State.frame_eq_encode_inProgress {s : State} (hkind : s.opk ≠ .fbrecv) :
    s.frame = encode s.inProgress := by
  cases ho : s.opk with
  | move => simp [State.frame, State.inProgress, encode, ho]
  | fbreq => simp [State.frame, State.inProgress, encode, ho]
  | fbrecv => exact absurd ho hkind

/-- Where exec of MOVE or FBREQ answers a next state, the operation was issued or took a send step of its
encoding. -/
theorem exec_next_of_sender {i : Instr} {s t : State} (hi : i ≠ .fbrecv) (h : exec i s = .next t) :
    (s.busy = false ∧ t = s.issued i) ∨ (s.busy = true ∧ SendNext (encode i) s t) := by
  rcases exec_next h with hissued | ⟨hbusy, hprogress, hkind, hsend⟩ | ⟨-, hprogress, hkind, -⟩
  · exact .inl hissued
  · rw [State.frame_eq_encode_inProgress hkind, hprogress] at hsend
    exact .inr ⟨hbusy, hsend⟩
  · exact absurd (hprogress.symm.trans (State.inProgress_of_fbrecv hkind)) hi

theorem sendNext_of_exec_busy {i : Instr} {s t : State} (hi : i ≠ .fbrecv) (hbusy : s.busy = true)
    (h : exec i s = .next t) : SendNext (encode i) s t := by
  rcases exec_next_of_sender hi h with ⟨hidle, -⟩ | ⟨-, hsend⟩
  · rw [hbusy] at hidle; cases hidle
  · exact hsend

/-! ### What the senders leave alone -/

/-- The issue of MOVE or FBREQ leaves the receiver's latches and the host's program. -/
theorem State.issued_rest_of_sender {i : Instr} (hi : i ≠ .fbrecv) (s : State) :
    (s.issued i).rxi = s.rxi ∧ (s.issued i).rb0 = s.rb0 ∧ (s.issued i).rb1 = s.rb1 ∧
    (s.issued i).program = s.program := by
  cases i with
  | move ch pos spd => exact ⟨rfl, rfl, rfl, rfl⟩
  | fbreq ch => exact ⟨rfl, rfl, rfl, rfl⟩
  | fbrecv => exact absurd rfl hi

/-- Settles O23: an issue writes the sequencer alone, and FBREQ's no operand but the channel; a send step
writes `busy`, `txi`, the TX history and the transport's answers. -/
theorem sendersLeaveTheRest : Obligations.SendersLeaveTheRest := by
  intro i s t hi h
  rcases exec_next_of_sender hi h with ⟨hidle, rfl⟩ | ⟨hbusy, hsend⟩
  · obtain ⟨hrxi, hrb0, hrb1, hprogram⟩ := s.issued_rest_of_sender hi
    refine ⟨s.issued_params i, s.issued_pos i, hrxi, hrb0, hrb1, s.issued_results i, hprogram,
      s.issued_rx i, .inl (s.issued_txHist i), fun _ => ⟨s.issued_txHist i, s.issued_tx i⟩,
      fun hbusy => absurd hbusy (by simp [hidle]), ?_⟩
    rintro ⟨ch, rfl⟩
    exact ⟨rfl, rfl⟩
  · obtain ⟨hparams, hpos, hopk, hlch, hlpos, hlspd, hrxi, hrb0, hrb1, hresults, hprogram, hrx, -,
      hhist⟩ := hsend.rest
    exact ⟨hparams, hpos, hrxi, hrb0, hrb1, hresults, hprogram, hrx,
      hhist.imp_right fun ⟨b, _, hb⟩ => ⟨b, hb⟩, fun hidle => absurd hbusy (by simp [hidle]),
      fun _ => ⟨hopk, hlch, hlpos, hlspd⟩, fun _ => ⟨hlpos, hlspd⟩⟩

/-! ### What a send step puts on the line -/

/-- The bytes a send step appends, from the frame, the byte index and the transport's answer alone. -/
def sentBytes (frame : List Byte) (k : Nat) (accepted : Bool) : List Byte :=
  if accepted then frame[k]?.toList else []

theorem SendNext.txHist_eq {frame : List Byte} {s t : State} (h : SendNext frame s t) :
    t.txHist = s.txHist ++ sentBytes frame s.txi.val (txOffer s).1 := by
  obtain ⟨b, hb, ⟨hoffer, rfl⟩ | ⟨hoffer, -, rfl⟩ | ⟨hoffer, -, rfl⟩⟩ := h
  · simp [sentBytes, hoffer]
  · simp [sentBytes, hoffer, hb]
  · simp [sentBytes, hoffer, hb]

theorem SendNext.sentBytes_length {frame : List Byte} {s t : State} (h : SendNext frame s t) :
    (sentBytes frame s.txi.val true).length = 1 := by
  obtain ⟨b, hb, -⟩ := h
  simp [sentBytes, hb]

/-- Settles O50: each step appends the bytes `sentBytes` reads off the operation's encoding at the byte index,
for the transport's answer; the two states agree on all three. -/
theorem encodingIsStateless : Obligations.EncodingIsStateless := by
  intro i s s' t t' hi hbusy hbusy' htxi hoffer h h'
  have hsend : SendNext (encode i) s t := sendNext_of_exec_busy hi hbusy h
  have hsend' : SendNext (encode i) s' t' := sendNext_of_exec_busy hi hbusy' h'
  refine ⟨sentBytes (encode i) s.txi.val (txOffer s).1, hsend.txHist_eq, ?_, fun haccept => ?_⟩
  · rw [hsend'.txHist_eq, htxi, hoffer]
  · rw [haccept]
    exact hsend.sentBytes_length

end Sys2Proof.Machine
end

section
/-! PROOFS. A whole MOVE or FBREQ, from its issue on, whatever finite waits the transport makes: after `n`
acceptances the first `n` bytes of its encoding are sent (40_encode.md R95, R98, R101). -/

namespace Sys2Proof.Machine

/-! ### Events, one after the other -/

theorem execEvents_succ {i : Instr} {s t : State} {k : Nat} (h : execEvents i (k + 1) s = .next t) :
    ∃ u, exec i s = .next u ∧ execEvents i k u = .next t := by
  rw [execEvents] at h
  cases hexec : exec i s with
  | next u => rw [hexec] at h; exact ⟨u, rfl, h⟩
  | fault r => rw [hexec] at h; cases h
  | refused r => rw [hexec] at h; cases h

theorem execEvents_add {i : Instr} {s t : State} {j : Nat} (h : execEvents i j s = .next t) (k : Nat) :
    execEvents i (j + k) s = execEvents i k t := by
  induction j generalizing s with
  | zero => cases h; rw [Nat.zero_add]
  | succ j ih =>
    obtain ⟨u, hexec, hrun⟩ := execEvents_succ h
    rw [Nat.succ_add, execEvents_succ_of_next hexec, ih hrun]

/-! ### The issue of a sender -/

theorem State.issued_opk_of_sender {i : Instr} (hi : i ≠ .fbrecv) (s : State) :
    (s.issued i).opk ≠ .fbrecv := by
  cases i with
  | move ch pos spd => simp [State.issued]
  | fbreq ch => simp [State.issued]
  | fbrecv => exact absurd rfl hi

theorem State.issued_inProgress (s : State) (i : Instr) : (s.issued i).inProgress = i := by
  cases i <;> rfl

/-! ### A sender under way -/

/-- `s`, at which `i` has been issued, once the first `n` bytes of its encoding are sent and the transport's
coming answers are `slots`. -/
def State.underWay (s : State) (i : Instr) (n : Nat) (slots : List Bool) : State :=
  { s.issued i with txi := Fin.ofNat 4 n, txHist := s.txHist ++ (encode i).take n,
                    tx := { s.tx with now := slots } }

/-- `s`, at which `i` was issued, once all of its encoding is sent. -/
def State.allSent (s : State) (i : Instr) (slots : List Bool) : State :=
  { s.issued i with busy := false, txi := 0, txHist := s.txHist ++ encode i,
                    tx := { s.tx with now := slots } }

section UnderWay
variable {i : Instr} {s : State} {n : Nat} {slots : List Bool}

/-- No frame is longer than the four values of `txi` (R30). -/
theorem encode_length_le_four (i : Instr) : (encode i).length ≤ 4 := by
  cases i with
  | move ch pos spd => exact Nat.le_refl 4
  | fbreq ch => exact (by decide : 2 ≤ 4)
  | fbrecv => exact (by decide : 3 ≤ 4)

theorem State.underWay_zero (hi : i ≠ .fbrecv) (htx : s.tx.now = slots) :
    s.underWay i 0 slots = s.issued i := by
  subst htx
  rw [State.underWay, List.take_zero, List.append_nil]
  cases i with
  | move ch pos spd => rfl
  | fbreq ch => rfl
  | fbrecv => exact absurd rfl hi

theorem State.underWay_txi (hn : n < (encode i).length) : (s.underWay i n slots).txi.val = n :=
  Nat.mod_eq_of_lt (Nat.lt_of_lt_of_le hn (encode_length_le_four i))

theorem State.underWay_txHist_append (hn : n < (encode i).length) :
    (s.underWay i n slots).txHist ++ [(encode i)[n]] = s.txHist ++ (encode i).take (n + 1) := by
  rw [State.underWay, List.append_assoc, List.take_append_getElem]

/-- The next event of a sender under way is a send step of its encoding. -/
theorem exec_underWay (hi : i ≠ .fbrecv) (n : Nat) (slots : List Bool) :
    exec i (s.underWay i n slots) = sendStep (encode i) (s.underWay i n slots) := by
  have hkind : (s.underWay i n slots).opk ≠ .fbrecv := s.issued_opk_of_sender hi
  have hprogress : (s.underWay i n slots).inProgress = i := s.issued_inProgress i
  have hexec := exec_inProgress (s := s.underWay i n slots) (s.issued_busy i)
  rwa [if_neg hkind, State.frame_eq_encode_inProgress hkind, hprogress] at hexec

theorem getElem?_underWay_txi (hn : n < (encode i).length) :
    (encode i)[(s.underWay i n slots).txi.val]? = some (encode i)[n] := by
  rw [State.underWay_txi hn, List.getElem?_eq_getElem hn]

theorem exec_underWay_refused (hi : i ≠ .fbrecv) (hn : n < (encode i).length) :
    exec i (s.underWay i n (false :: slots)) = .next (s.underWay i n slots) := by
  have hoffer := txOffer_of_now (s := s.underWay i n (false :: slots)) rfl
  rw [exec_underWay hi, sendStep_of_refused (getElem?_underWay_txi hn) (congrArg Prod.fst hoffer), hoffer]
  rfl

theorem exec_underWay_accepted (hi : i ≠ .fbrecv) (hn : n + 1 < (encode i).length) :
    exec i (s.underWay i n (true :: slots)) = .next (s.underWay i (n + 1) slots) := by
  have hlt : n < (encode i).length := Nat.lt_of_succ_lt hn
  have hoffer := txOffer_of_now (s := s.underWay i n (true :: slots)) rfl
  have htxi : (s.underWay i n (true :: slots)).txi + 1 = Fin.ofNat 4 (n + 1) := by
    simp [State.underWay, Fin.ext_iff, Fin.val_add]
  rw [exec_underWay hi, sendStep_of_more (getElem?_underWay_txi hlt) (congrArg Prod.fst hoffer)
    (by rwa [State.underWay_txi hlt]), hoffer, State.sentByte, htxi,
    State.underWay_txHist_append hlt]
  rfl

theorem exec_underWay_last (hi : i ≠ .fbrecv) (hn : n + 1 = (encode i).length) :
    exec i (s.underWay i n (true :: slots)) = .next (s.allSent i slots) := by
  have hlt : n < (encode i).length := hn ▸ Nat.lt_succ_self n
  have hoffer := txOffer_of_now (s := s.underWay i n (true :: slots)) rfl
  rw [exec_underWay hi, sendStep_of_last (getElem?_underWay_txi hlt) (congrArg Prod.fst hoffer)
    (by rw [State.underWay_txi hlt, hn]), hoffer, State.sentLast,
    State.underWay_txHist_append hlt, hn, List.take_length]
  rfl

/-! ### The whole operation -/

/-- While acceptances leave a byte to send, each sends the next one and a refusal sends none. -/
theorem execEvents_underWay (hi : i ≠ .fbrecv) (more : List Bool)
    (hfew : n + slots.count true < (encode i).length) :
    execEvents i slots.length (s.underWay i n (slots ++ more)) =
      .next (s.underWay i (n + slots.count true) more) := by
  induction slots generalizing n with
  | nil => rfl
  | cons a slots ih =>
    cases a with
    | false =>
      rw [List.count_cons_of_ne (by decide)] at hfew ⊢
      rw [List.length_cons, List.cons_append,
        execEvents_succ_of_next (exec_underWay_refused hi (by omega)), ih hfew]
    | true =>
      rw [List.count_cons_self] at hfew ⊢
      rw [List.length_cons, List.cons_append,
        execEvents_succ_of_next (exec_underWay_accepted hi (by omega)), ih (by omega),
        Nat.add_right_comm, Nat.add_assoc]

/-- From the issue on, with fewer acceptances than the encoding has bytes. -/
theorem execEvents_of_fewer {more : List Bool} (hi : i ≠ .fbrecv) (hidle : s.busy = false)
    (htx : s.tx.now = slots ++ more) (hfew : slots.count true < (encode i).length) :
    execEvents i (slots.length + 1) s = .next (s.underWay i (slots.count true) more) := by
  rw [execEvents_succ_of_next (exec_idle hidle i), ← State.underWay_zero hi htx,
    execEvents_underWay hi more (by rwa [Nat.zero_add]), Nat.zero_add]

/-- The answers that accept a whole frame end with the acceptance of its last byte. -/
theorem Accepts.exists_eq_append {m : Nat} (h : Accepts m slots) :
    ∃ init, slots = init ++ [true] ∧ init.count true + 1 = m := by
  obtain ⟨hcount, hlast⟩ := h
  obtain ⟨init, rfl⟩ := List.getLast?_eq_some_iff.mp hlast
  exact ⟨init, rfl, by simpa using hcount⟩

/-- From the issue on, with as many acceptances as the encoding has bytes. -/
theorem execEvents_of_accepts {more : List Bool} (hi : i ≠ .fbrecv) (hidle : s.busy = false)
    (htx : s.tx.now = slots ++ more) (haccepts : Accepts (encode i).length slots) :
    execEvents i (slots.length + 1) s = .next (s.allSent i more) := by
  obtain ⟨init, rfl, hcount⟩ := haccepts.exists_eq_append
  have hinit : execEvents i (init.length + 1) s = .next (s.underWay i (init.count true) (true :: more)) :=
    execEvents_of_fewer hi hidle (by rw [htx, List.append_assoc]; rfl) (by omega)
  rw [List.length_append, List.length_singleton, execEvents_add hinit 1,
    execEvents_succ_of_next (exec_underWay_last hi hcount)]
  rfl

end UnderWay

/-- Settles O20: each of the first three acceptances sends one byte of the encoding, the fourth its last one,
and the block is idle again. -/
theorem moveSendsItsFourBytes : Obligations.MoveSendsItsFourBytes := by
  intro s ch pos spd slots more hidle htx
  have hi : Instr.move ch pos spd ≠ .fbrecv := by simp
  refine ⟨fun haccepts => ?_, fun hfew => ?_⟩
  · rw [hidle]
    exact execEvents_of_accepts hi hidle htx haccepts
  · exact ⟨_, execEvents_of_fewer hi hidle htx hfew, rfl, rfl⟩

/-- Settles O21: the first acceptance sends the lead, the second the channel byte, and the block is idle
again. -/
theorem fbreqSendsItsTwoBytes : Obligations.FbreqSendsItsTwoBytes := by
  intro s ch slots more hidle htx
  have hi : Instr.fbreq ch ≠ .fbrecv := by simp
  refine ⟨fun haccepts => ?_, fun hfew => ?_⟩
  · rw [hidle]
    exact execEvents_of_accepts hi hidle htx haccepts
  · exact ⟨_, execEvents_of_fewer hi hidle htx hfew, rfl, rfl⟩

end Sys2Proof.Machine
end

section
/-! PROOFS. The decoder's formulas, bit by bit: the position is `b1` in front of the sextet of `b2`, the channel
lies inside a sextet, and so both fields of an echoed frame come back (41_decode.md R110 to R116). -/

namespace Sys2Proof.Machine

/-! ### The position -/

theorem decodePosition_eq_append (b1 b2 : Byte) : decodePosition b1 b2 = b1 ++ b2.extractLsb' 0 6 := by
  refine BitVec.eq_of_getLsbD_eq fun i _ => ?_
  rw [getLsbD_decodePosition, BitVec.getLsbD_append]
  by_cases hi : i < 6
  · simp [hi]
  · simp [hi]

/-- The position tells `b1` and the sextet of `b2` apart from all others. -/
theorem decodePosition_eq_iff {b1 b2 c1 c2 : Byte} : decodePosition b1 b2 = decodePosition c1 c2 ↔
    b1 = c1 ∧ b2.extractLsb' 0 6 = c2.extractLsb' 0 6 := by
  rw [decodePosition_eq_append, decodePosition_eq_append]
  constructor
  · intro h
    have hhigh := congrArg (BitVec.extractLsb' 6 8) h
    have hlow := congrArg (BitVec.extractLsb' 0 6) h
    rw [BitVec.extractLsb'_append_eq_left, BitVec.extractLsb'_append_eq_left] at hhigh
    rw [BitVec.extractLsb'_append_eq_right, BitVec.extractLsb'_append_eq_right] at hlow
    exact ⟨hhigh, hlow⟩
  · rintro ⟨rfl, hlow⟩
    rw [hlow]

/-- Bit 6 of a channel byte in the place of `b1` is bit 12 of the position (R116). -/
theorem le_decodePosition_of_isChannelByte {b1 : Byte} (h : isChannelByte b1 = true) (b2 : Byte) :
    2 ^ 12 ≤ (decodePosition b1 b2).toNat := by
  obtain ⟨hbit, -⟩ := isChannelByte_iff.mp h
  refine Nat.ge_two_pow_of_testBit ?_
  rw [BitVec.testBit_toNat, getLsbD_decodePosition]
  exact hbit

/-- Where the low byte is a sextet, the decoder reads what a receiver of the command frame reads (R102). -/
theorem entryOf_decodePosition (b1 : Byte) {b2 : Byte} (h : isSextetByte b2 = true) :
    entryOf (decodePosition b1 b2) = positionOf b1 b2 := by
  refine BitVec.eq_of_getLsbD_eq fun i _ => ?_
  rw [getLsbD_entryOf, getLsbD_decodePosition, getLsbD_positionOf]
  by_cases hi : i < 6
  · simp [hi, Nat.not_le.mpr hi]
  · simp [hi, Nat.not_lt.mp hi, getLsbD_of_isSextetByte h (Nat.not_lt.mp hi)]

theorem entryOf_decodePosition_posHi_posLo (pos : Word) :
    entryOf (decodePosition (posHi pos) (posLo pos)) = pos &&& 0x0FFF#16 := by
  rw [entryOf_decodePosition _ (isSextetByte_posLo pos), positionOf_posHi_posLo]

/-! ### The channel -/

/-- Each of the three masks lies inside the sextet (R10). -/
theorem sextet_and_rxMaskByte (m : RxMask) : 0x3F#8 &&& rxMaskByte m = rxMaskByte m := by
  cases m <;> rfl

theorem decodeChannel_sextetOf (m : RxMask) (b : Byte) : decodeChannel m (sextetOf b) = decodeChannel m b := by
  rw [decodeChannel, sextetOf, BitVec.and_assoc, sextet_and_rxMaskByte, decodeChannel]

/-- The receiver reads no more of a channel byte than its sextet, which holds the sextet of the channel. -/
theorem decodeChannel_tagCh (m : RxMask) (ch : Byte) : decodeChannel m (tagCh ch) = ch &&& rxMaskByte m :=
  calc decodeChannel m (tagCh ch)
    _ = decodeChannel m (sextetOf (tagCh ch)) := (decodeChannel_sextetOf m _).symm
    _ = decodeChannel m (sextetOf ch) := by rw [sextetOf_tagCh, sextetOf]
    _ = ch &&& rxMaskByte m := decodeChannel_sextetOf m ch

/-- A channel beyond the table does not survive the round trip (R115). -/
theorem decodeChannel_tagCh_ne {m : RxMask} {ch : Byte} (h : ntab m ≤ ch.toNat) :
    decodeChannel m (tagCh ch) ≠ ch := by
  intro heq
  have hlt : ch.toNat < ntab m := by
    rw [← heq, decodeChannel_tagCh]
    exact and_mask_lt_ntab m ch
  exact absurd hlt (Nat.not_lt.mpr h)

/-! ### The frame -/

theorem decodeFeedback_eq (m : RxMask) (b0 b1 b2 : Byte) :
    decodeFeedback m b0 b1 b2 = { rch := b0 &&& rxMaskByte m, rpos := b1 ++ b2.extractLsb' 0 6 } := by
  rw [decodeFeedback, decodePosition_eq_append, decodeChannel]

/-- Settles O9: the first and the last equation are the definitions, the middle one gives the bits. -/
theorem decodeFeedbackFormulas : Obligations.DecodeFeedbackFormulas := fun _ _ b1 b2 =>
  ⟨rfl, decodePosition_eq_append b1 b2, rfl⟩

/-- Settles O10: results are equal field by field, and a position determines the bits it is made of. -/
theorem decodeDependsOnNamedBits : Obligations.DecodeDependsOnNamedBits := by
  intro m b0 b1 b2 c0 c1 c2
  rw [← decodePosition_eq_iff, decodeFeedback, decodeFeedback, FbResult.mk.injEq, decodeChannel,
    decodeChannel]

/-- Settles O11: the position's two sextets and the masked channel come back; channels from 32 on lie beyond
the default mask's table of 32 entries. -/
theorem fieldRoundTrips : Obligations.FieldRoundTrips := by
  refine ⟨entryOf_decodePosition_posHi_posLo, decodeChannel_tagCh, fun c hbeyond _ => ?_,
    fun m ch pos => ⟨decodeChannel_tagCh m ch, entryOf_decodePosition_posHi_posLo pos⟩⟩
  obtain ⟨-, hntab, -⟩ := ntab_values
  exact decodeChannel_tagCh_ne (hntab.trans_le hbeyond)

/-- Settles O13: the formulas do not ask which byte of a response they are given; two bytes too late the
channel byte is the position's high byte, and its tag is bit 12. -/
theorem misalignedFramesDecode : Obligations.MisalignedFramesDecode := by
  intro m pHi pLo c pHi' hc
  exact ⟨decodeFeedback_eq m pHi pLo c, decodeFeedback_eq m pLo c pHi',
    le_decodePosition_of_isChannelByte hc pHi'⟩

end Sys2Proof.Machine
end

section
/-! PROOFS. One byte step of FBRECV: what each byte does, and what it leaves alone (41_decode.md R114, R118). -/

namespace Sys2Proof.Machine

/-! ### A receive step, by the environment's answer and the place of the byte -/

section RecvStep
variable {s : State} {b : Byte}

theorem recvStep_of_none (hoffer : (rxOffer s).1 = none) :
    recvStep s = .next (s.recvWaited (rxOffer s).2) :=
  recvStep_next.mpr (.inl ⟨hoffer, rfl⟩)

theorem recvStep_of_first (hoffer : (rxOffer s).1 = some b) (hrxi : s.rxi = 0) :
    recvStep s = .next (s.tookFirst b (rxOffer s).2) :=
  recvStep_next.mpr (.inr ⟨b, hoffer, .inl ⟨hrxi, rfl⟩⟩)

theorem recvStep_of_second (hoffer : (rxOffer s).1 = some b) (hrxi : s.rxi = 1) :
    recvStep s = .next (s.tookSecond b (rxOffer s).2) :=
  recvStep_next.mpr (.inr ⟨b, hoffer, .inr (.inl ⟨hrxi, rfl⟩)⟩)

/-- In a table of `NTAB` entries the reported channel always has one (R21). -/
theorem recvStep_of_third {r : FbResult} (hoffer : (rxOffer s).1 = some b) (hrxi : s.rxi = 2)
    (hntab : s.pos.length = ntab s.params.rxMask)
    (hr : r = decodeFeedback s.params.rxMask s.rb0 s.rb1 b) :
    recvStep s = .next
      (State.tookThird { s with pos := s.pos.set r.rch.toNat (entryOf r.rpos) } r (rxOffer s).2) := by
  subst hr
  have hindex : (decodeFeedback s.params.rxMask s.rb0 s.rb1 b).rch.toNat < s.pos.length := by
    rw [hntab]; exact and_mask_lt_ntab _ _
  exact recvStep_next.mpr (.inr ⟨b, hoffer, .inr (.inr ⟨hrxi, hindex, rfl⟩)⟩)

end RecvStep

/-- Settles O19: an FBRECV in progress takes a receive step, by the byte index or by the wait. -/
theorem fbrecvTakesOneByte : Obligations.FbrecvTakesOneByte := by
  intro s hbusy hkind
  rw [exec_fbrecv_resume hbusy hkind]
  exact ⟨fun _ => recvStep_of_first, fun _ => recvStep_of_second, fun _ _ => recvStep_of_third,
    recvStep_of_none⟩

/-! ### What the receiver leaves alone -/

theorem exec_fbrecv_next {s t : State} (h : exec .fbrecv s = .next t) :
    (s.busy = false ∧ t = s.issueFbrecv) ∨ (s.busy = true ∧ RecvNext s t) := by
  rcases runPrimitive_next h with hissued | ⟨hbusy, -, hstep⟩
  · exact .inl hissued
  · exact .inr ⟨hbusy, recvStep_next.mp hstep⟩

/-- Before the third byte the table and the results stay (R47). -/
theorem RecvNext.table_eq {s t : State} (h : RecvNext s t) (hrxi : s.rxi ≠ 2) :
    t.pos = s.pos ∧ t.results = s.results := by
  rcases h with ⟨-, rfl⟩ | ⟨b, -, ⟨-, rfl⟩ | ⟨-, rfl⟩ | ⟨hthird, -, -⟩⟩
  · exact ⟨rfl, rfl⟩
  · exact ⟨rfl, rfl⟩
  · exact ⟨rfl, rfl⟩
  · exact absurd hthird hrxi

/-- No byte writes an entry other than the one `rb0` names (R114). -/
theorem RecvNext.readEntry_eq {s t : State} (h : RecvNext s t) {j : Nat}
    (hj : j ≠ (decodeChannel s.params.rxMask s.rb0).toNat) : readEntry t j = readEntry s j := by
  rcases h with ⟨-, rfl⟩ | ⟨b, -, ⟨-, rfl⟩ | ⟨-, rfl⟩ | ⟨-, hindex, rfl⟩⟩
  · rfl
  · rfl
  · rfl
  · exact (readEntry_set hindex).trans (if_neg hj.symm)

/-- Settles O24: an issue writes the sequencer alone; a receive step writes the RX side of it, and the table
and the results at the third byte only. -/
theorem receiverLeavesTheRest : Obligations.ReceiverLeavesTheRest := by
  intro s t h
  rcases exec_fbrecv_next h with ⟨-, rfl⟩ | ⟨hbusy, hrecv⟩
  · exact ⟨rfl, rfl, rfl, rfl, rfl, rfl, rfl, rfl, fun _ => ⟨rfl, rfl⟩, fun _ _ => rfl, rfl⟩
  · obtain ⟨hparams, -, hlch, hlpos, hlspd, htxi, hhist, hprogram, htx, -, hlength⟩ := hrecv.rest
    refine ⟨hparams, hlch, hlpos, hlspd, htxi, hhist, htx, hprogram, fun hearly => ?_,
      fun _ => hrecv.readEntry_eq, hlength⟩
    exact hrecv.table_eq (hearly.resolve_left (by simp [hbusy]))

end Sys2Proof.Machine
end

section
/-! PROOFS. A whole FBRECV, from its issue on, whatever finite waits stand between the bytes: two bytes are
latched and the third writes the reported entry (41_decode.md R114, R118). -/

namespace Sys2Proof.Machine

/-! ### A receiver under way -/

/-- `s`, at which FBRECV has been issued, once the bytes `bs` are taken, at most two, and the environment's
coming answers are `slots`. -/
def State.holding (s : State) (bs : List Byte) (slots : List (Option Byte)) : State :=
  { s.issueFbrecv with rxi := Fin.ofNat 3 bs.length, rb0 := bs.getD 0 s.rb0, rb1 := bs.getD 1 s.rb1,
                       rx := { s.rx with now := slots } }

/-- `s`, at which FBRECV was issued, once its three bytes are taken and decoded to `r`. -/
def State.reported (s : State) (b0 b1 : Byte) (r : FbResult) (slots : List (Option Byte)) : State :=
  { s with opk := .fbrecv, busy := false, rxi := 0, rb0 := b0, rb1 := b1,
           pos := s.pos.set r.rch.toNat (entryOf r.rpos), results := s.results ++ [r],
           rx := { s.rx with now := slots } }

section Holding
variable {s : State} {bs : List Byte} {b0 b1 b2 : Byte} {slots more : List (Option Byte)}

theorem State.holding_nil (hrx : s.rx.now = slots) : s.holding [] slots = s.issueFbrecv := by
  subst hrx; rfl

/-- The next event of a receiver under way is a receive step. -/
theorem exec_holding (s : State) (bs : List Byte) (slots : List (Option Byte)) :
    exec .fbrecv (s.holding bs slots) = recvStep (s.holding bs slots) := exec_fbrecv_resume rfl rfl

theorem rxOffer_holding (s : State) (bs : List Byte) (a : Option Byte) (slots : List (Option Byte)) :
    rxOffer (s.holding bs (a :: slots)) = (a, { s.rx with now := slots }) := rxOffer_of_now rfl

theorem exec_holding_none : exec .fbrecv (s.holding bs (none :: slots)) = .next (s.holding bs slots) := by
  have hoffer := rxOffer_holding s bs none slots
  rw [exec_holding, recvStep_of_none (congrArg Prod.fst hoffer), hoffer]
  rfl

theorem exec_holding_some {b : Byte} (hfew : bs.length < 2) :
    exec .fbrecv (s.holding bs (some b :: slots)) = .next (s.holding (bs ++ [b]) slots) := by
  have hoffer := rxOffer_holding s bs (some b) slots
  rw [exec_holding]
  match bs, hfew with
  | [], _ => rw [recvStep_of_first (congrArg Prod.fst hoffer) rfl, hoffer]; rfl
  | [b0], _ => rw [recvStep_of_second (congrArg Prod.fst hoffer) rfl, hoffer]; rfl

theorem exec_holding_third {r : FbResult} (hntab : s.pos.length = ntab s.params.rxMask)
    (hr : r = decodeFeedback s.params.rxMask b0 b1 b2) :
    exec .fbrecv (s.holding [b0, b1] (some b2 :: slots)) = .next (s.reported b0 b1 r slots) := by
  have hoffer := rxOffer_holding s [b0, b1] (some b2) slots
  rw [exec_holding, recvStep_of_third (congrArg Prod.fst hoffer) rfl hntab hr, hoffer]
  rfl

/-! ### The whole operation -/

/-- While the answers leave a byte to come, each byte among them is held and a wait adds none. -/
theorem execEvents_holding (hfew : (bs ++ slots.reduceOption).length < 3) :
    execEvents .fbrecv slots.length (s.holding bs (slots ++ more)) =
      .next (s.holding (bs ++ slots.reduceOption) more) := by
  induction slots generalizing bs with
  | nil => rw [List.reduceOption_nil, List.append_nil]; rfl
  | cons a slots ih =>
    cases a with
    | none =>
      rw [List.reduceOption_cons_of_none] at hfew ⊢
      rw [List.length_cons, List.cons_append, execEvents_succ_of_next exec_holding_none, ih hfew]
    | some b =>
      rw [List.reduceOption_cons_of_some, List.append_cons] at hfew ⊢
      have hroom : bs.length < 2 := by
        simp only [List.length_append, List.length_singleton] at hfew
        omega
      rw [List.length_cons, List.cons_append, execEvents_succ_of_next (exec_holding_some hroom), ih hfew]

/-- From the issue on, with fewer than three bytes supplied. -/
theorem execEvents_of_fewerBytes (hidle : s.busy = false) (hrx : s.rx.now = slots ++ more)
    (hfew : slots.reduceOption.length < 3) :
    execEvents .fbrecv (slots.length + 1) s = .next (s.holding slots.reduceOption more) := by
  rw [execEvents_succ_of_next (exec_fbrecv_idle hidle), ← State.holding_nil hrx]
  exact execEvents_holding hfew

/-- The answers that supply some bytes end with the last of them. -/
theorem Supplies.exists_eq_append {b : Byte} (h : Supplies (bs ++ [b]) slots) :
    ∃ init, slots = init ++ [some b] ∧ init.reduceOption = bs := by
  obtain ⟨hbytes, hlast⟩ := h
  rw [List.getLast?_concat] at hlast
  obtain ⟨init, rfl⟩ := List.getLast?_eq_some_iff.mp hlast
  rw [← List.concat_eq_append, List.reduceOption_concat_of_some, List.concat_eq_append] at hbytes
  exact ⟨init, rfl, List.append_cancel_right hbytes⟩

/-- From the issue on, with three bytes supplied. -/
theorem execEvents_of_threeBytes {r : FbResult} (hidle : s.busy = false)
    (hntab : s.pos.length = ntab s.params.rxMask) (hrx : s.rx.now = slots ++ more)
    (hsupplies : Supplies [b0, b1, b2] slots) (hr : r = decodeFeedback s.params.rxMask b0 b1 b2) :
    execEvents .fbrecv (slots.length + 1) s = .next (s.reported b0 b1 r more) := by
  obtain ⟨init, rfl, hheld⟩ := Supplies.exists_eq_append (bs := [b0, b1]) hsupplies
  have hinit : execEvents .fbrecv (init.length + 1) s = .next (s.holding [b0, b1] (some b2 :: more)) := by
    rw [← hheld]
    exact execEvents_of_fewerBytes hidle (by rw [hrx, List.append_assoc]; rfl) (by simp [hheld])
  rw [List.length_append, List.length_singleton, execEvents_add hinit 1,
    execEvents_succ_of_next (exec_holding_third hntab hr)]
  rfl

end Holding

/-- Settles O22: the first two bytes are held, which writes neither the table nor the results; the third
writes the reported entry and the block is idle again. -/
theorem fbrecvWritesTheReportedEntry : Obligations.FbrecvWritesTheReportedEntry := by
  intro s slots more hidle hntab hrx
  refine ⟨fun b0 b1 b2 r hsupplies hr => ?_, fun hfew => ?_⟩
  · rw [hidle]
    exact execEvents_of_threeBytes hidle hntab hrx hsupplies hr
  · exact ⟨_, execEvents_of_fewerBytes hidle hrx hfew, rfl, rfl, rfl⟩

end Sys2Proof.Machine
end

section
/-! PROOFS. What the premises about the environment say of a feed's coming answers, be they listed, repeated, or
those of a line that only serves in the end (42_poller.md R140). -/

namespace Sys2Proof.Machine

/-- Of the next `k` answers of `f` those that serve are `as`, the last of them at the `k`-th attempt; `g` is what
`f` is after that. -/
inductive Feed.Serves {α : Type} (free : Nat → α) (serves : α → Bool) :
    List α → Nat → Feed α → Feed α → Prop where
  | done {f : Feed α} : Serves free serves [] 0 f f
  | wait {f g h : Feed α} {a b : α} {as : List α} {k : Nat} (next : f.next free = (some a, g))
      (refused : serves a = false) (more : Serves free serves (b :: as) k g h) :
      Serves free serves (b :: as) (k + 1) f h
  | serve {f g h : Feed α} {a : α} {as : List α} {k : Nat} (next : f.next free = (some a, g))
      (served : serves a = true) (more : Serves free serves as k g h) :
      Serves free serves (a :: as) (k + 1) f h

section Serves
variable {α : Type} {free : Nat → α} {serves : α → Bool} {f h : Feed α} {as bs : List α} {k : Nat}

theorem Feed.Serves.of_nil (hf : Serves free serves [] k f h) : k = 0 ∧ h = f := by
  cases hf
  exact ⟨rfl, rfl⟩

/-- The answers that serve may be cut anywhere: those that serve first, and those after them. -/
theorem Feed.Serves.split (hf : Serves free serves (as ++ bs) k f h) :
    ∃ i j g, i + j = k ∧ Serves free serves as i f g ∧ Serves free serves bs j g h := by
  generalize hcs : as ++ bs = cs at hf
  induction hf generalizing as with
  | done =>
    obtain ⟨rfl, rfl⟩ := List.append_eq_nil_iff.mp hcs
    exact ⟨0, 0, _, rfl, .done, .done⟩
  | wait next refused more ih =>
    rcases List.append_eq_cons_iff.mp hcs with ⟨rfl, rfl⟩ | ⟨as, rfl, hmore⟩
    · exact ⟨0, _, _, Nat.zero_add _, .done, .wait next refused more⟩
    · obtain ⟨i, j, g, rfl, hi, hj⟩ := ih hcs
      exact ⟨i + 1, j, g, Nat.succ_add i j, .wait next refused hi, hj⟩
  | serve next served more ih =>
    rcases List.append_eq_cons_iff.mp hcs with ⟨rfl, rfl⟩ | ⟨as, rfl, hmore⟩
    · exact ⟨0, _, _, Nat.zero_add _, .done, .serve next served more⟩
    · obtain ⟨i, j, g, rfl, hi, hj⟩ := ih hmore.symm
      exact ⟨i + 1, j, g, Nat.succ_add i j, .serve next served hi, hj⟩

/-! ### Listed answers -/

/-- A feed whose listed answers begin with `slots`, of which the last serves. -/
theorem Feed.serves_listed {slots more : List α} (hnow : f.now = slots ++ more)
    (hlast : ∀ a ∈ slots.getLast?, serves a = true) :
    Serves free serves (slots.filter serves) slots.length f { f with now := more } := by
  induction slots generalizing f with
  | nil =>
    obtain ⟨now, tail⟩ := f
    obtain rfl : now = more := hnow
    exact .done
  | cons a slots ih =>
    have hnext : f.next free = (some a, { f with now := slots ++ more }) := Feed.next_of_now free hnow
    cases slots with
    | nil =>
      have ha : serves a = true := hlast a rfl
      rw [List.filter_cons_of_pos ha]
      exact .serve hnext ha .done
    | cons b slots =>
      have hmore := ih (f := { f with now := b :: slots ++ more }) rfl hlast
      cases ha : serves a with
      | true => rw [List.filter_cons_of_pos ha]; exact .serve hnext ha hmore
      | false =>
        rw [List.filter_cons_of_neg (by simp [ha])]
        have hmem : (b :: slots).getLast (List.cons_ne_nil b slots) ∈ (b :: slots).filter serves :=
          List.mem_filter.mpr ⟨List.getLast_mem _,
            hlast _ (List.getLast?_eq_some_getLast (List.cons_ne_nil b slots))⟩
        obtain ⟨c, cs, hfilter⟩ := List.exists_cons_of_ne_nil (List.ne_nil_of_mem hmem)
        rw [hfilter] at hmore ⊢
        exact .wait hnext ha hmore

/-- Repeated answers that all serve, given once: they are to be given again. -/
theorem Feed.serves_again (hserves : ∀ a ∈ as, serves a = true) :
    Serves free serves as as.length ⟨[], .again as⟩ ⟨[], .again as⟩ := by
  cases as with
  | nil => exact .done
  | cons a as =>
    have hlisted := serves_listed (f := ⟨as, .again (a :: as)⟩) (free := free) (List.append_nil as).symm
      fun b hb => hserves b (List.mem_cons_of_mem a (List.mem_of_getLast? hb))
    rw [List.filter_eq_self.mpr fun b hb => hserves b (List.mem_cons_of_mem a hb)] at hlisted
    exact .serve (Feed.next_again_cons free a as) (hserves a (List.mem_cons_self ..)) hlisted

/-! ### Answers that serve in the end -/

theorem Feed.after_of_next_eq_none (h : (f.next free).1 = none) (k : Nat) : f.after free k = f := by
  have hstays : (f.next free).2 = f := by
    obtain ⟨_ | ⟨a, now⟩, tail⟩ := f
    · rcases tail with (_ | ⟨b, answers⟩) | j
      · rfl
      · cases h
      · cases h
    · cases h
  induction k with
  | zero => rfl
  | succ k ih => rw [Feed.after_succ, hstays, ih]

/-- A feed that does not never serve gives, after the answers that do not serve, one that does. -/
theorem Feed.exists_serves_one (hf : ¬ f.neverServes free serves) :
    ∃ a k, Serves free serves [a] (k + 1) f (f.after free (k + 1)) := by
  obtain ⟨k, a, hanswer, hserves, hwaits⟩ := Feed.serves_after hf
  refine ⟨a, k, ?_⟩
  clear hf
  induction k generalizing f with
  | zero => exact .serve (Prod.ext hanswer rfl) hserves .done
  | succ k ih =>
    have hmore := ih (f := (f.next free).2) hanswer fun j hj b hb => hwaits (j + 1) (by omega) b hb
    cases hb : (f.next free).1 with
    | none => rw [Feed.after_of_next_eq_none hb, hb] at hanswer; cases hanswer
    | some b => exact .wait (Prod.ext hb rfl) (hwaits 0 (Nat.succ_pos k) b hb) hmore

/-- One answer that serves, and after it those that serve next. -/
theorem Feed.Serves.cons {a : α} {i : Nat} {g : Feed α} (hf : Serves free serves [a] i f g)
    (hg : Serves free serves as k g h) : ∃ j, Serves free serves (a :: as) j f h := by
  generalize hcs : [a] = cs at hf
  induction hf with
  | done => cases hcs
  | wait next refused more ih =>
    obtain ⟨j, hj⟩ := ih hg hcs
    obtain ⟨rfl, rfl⟩ := List.cons.inj hcs
    exact ⟨j + 1, .wait next refused hj⟩
  | serve next served more =>
    obtain ⟨rfl, rfl⟩ := List.cons.inj hcs
    cases more
    exact ⟨_, .serve next served hg⟩

/-- A feed that goes on serving serves any number of times. -/
theorem Feed.servesForever.exists_serves (hf : f.servesForever free serves) (n : Nat) :
    ∃ as k g, as.length = n ∧ Serves free serves as k f g := by
  induction n generalizing f with
  | zero => exact ⟨[], 0, f, rfl, .done⟩
  | succ n ih =>
    obtain ⟨a, k, hone⟩ := Feed.exists_serves_one (hf 0)
    obtain ⟨as, i, g, rfl, hmore⟩ := ih (Feed.servesForever_after hf (k + 1))
    obtain ⟨j, hj⟩ := hone.cons hmore
    exact ⟨a :: as, j, g, rfl, hj⟩

end Serves

/-! ### The transport -/

/-- `n` bytes are accepted within the next `k` attempts to send, the last of them at the `k`-th (R101). -/
def Feed.AcceptsWithin (n k : Nat) (f g : Feed Bool) : Prop :=
  ∃ as, as.length = n ∧ f.Serves Config.txOracle id as k g

section AcceptsWithin
variable {f g : Feed Bool} {n k : Nat}

theorem Feed.AcceptsWithin.of_zero (hf : f.AcceptsWithin 0 k g) : k = 0 ∧ g = f := by
  obtain ⟨as, hlength, hserves⟩ := hf
  obtain rfl : as = [] := List.eq_nil_of_length_eq_zero hlength
  exact hserves.of_nil

theorem Feed.AcceptsWithin.split {m : Nat} (hf : f.AcceptsWithin (m + n) k g) :
    ∃ i j h, i + j = k ∧ f.AcceptsWithin m i h ∧ h.AcceptsWithin n j g := by
  obtain ⟨as, hlength, hserves⟩ := hf
  rw [← List.take_append_drop m as] at hserves
  obtain ⟨i, j, h, hij, htake, hdrop⟩ := hserves.split
  exact ⟨i, j, h, hij, ⟨_, by simp [hlength], htake⟩, ⟨_, by simp [hlength], hdrop⟩⟩

theorem Feed.acceptsWithin_listed {slots more : List Bool} (hnow : f.now = slots ++ more)
    (haccepts : Accepts n slots) : f.AcceptsWithin n slots.length { f with now := more } := by
  obtain ⟨hcount, hlast⟩ := haccepts
  refine ⟨slots.filter id, ?_, Feed.serves_listed hnow fun a ha => ?_⟩
  · rw [← hcount, List.count, List.countP_eq_length_filter]
    congr 2
    funext b
    simp
  · rw [hlast] at ha
    cases ha
    rfl

theorem Feed.alwaysAccepts.next_eq (hf : f.alwaysAccepts) :
    ∃ g, f.next Config.txOracle = (some true, g) ∧ g.alwaysAccepts := by
  obtain ⟨now, tail⟩ := f
  obtain ⟨hnow, m, rfl⟩ := hf
  cases now with
  | nil => exact ⟨_, rfl, by simp, m, rfl⟩
  | cons a now =>
    obtain ⟨rfl, hnow⟩ := (Bool.and_eq_true _ _).mp hnow
    exact ⟨_, rfl, hnow, m, rfl⟩

/-- A line that accepts every byte wastes no attempt. -/
theorem Feed.alwaysAccepts.acceptsWithin (hf : f.alwaysAccepts) (n : Nat) :
    ∃ g, f.AcceptsWithin n n g ∧ g.alwaysAccepts := by
  induction n generalizing f with
  | zero => exact ⟨f, ⟨[], rfl, .done⟩, hf⟩
  | succ n ih =>
    obtain ⟨h, hnext, hh⟩ := hf.next_eq
    obtain ⟨g, ⟨as, rfl, hmore⟩, hg⟩ := ih hh
    exact ⟨g, ⟨true :: as, rfl, .serve hnext rfl hmore⟩, hg⟩

theorem Feed.servesForever.acceptsWithin (hf : f.servesForever Config.txOracle id) (n : Nat) :
    ∃ k g, f.AcceptsWithin n k g := by
  obtain ⟨as, k, g, hlength, hserves⟩ := hf.exists_serves n
  exact ⟨k, g, as, hlength, hserves⟩

end AcceptsWithin

/-! ### The board -/

/-- The bytes `bs` are supplied within the next `k` attempts to receive, the last of them at the `k`-th (R118). -/
def Feed.SuppliesWithin (bs : List Byte) (k : Nat) (f g : Feed (Option Byte)) : Prop :=
  f.Serves Config.rxOracle Option.isSome (bs.map some) k g

section SuppliesWithin
variable {f g : Feed (Option Byte)} {bs cs : List Byte} {k : Nat}

theorem Feed.SuppliesWithin.split (hf : f.SuppliesWithin (bs ++ cs) k g) :
    ∃ i j h, i + j = k ∧ f.SuppliesWithin bs i h ∧ h.SuppliesWithin cs j g :=
  Feed.Serves.split (by rwa [Feed.SuppliesWithin, List.map_append] at hf)

/-- A board that answers at once. -/
theorem Supplies.map_some (bs : List Byte) : Supplies bs (bs.map some) :=
  ⟨by rw [List.reduceOption, List.filterMap_map]; exact List.filterMap_some, List.getLast?_map⟩

theorem filter_isSome_eq_map_reduceOption (slots : List (Option Byte)) :
    slots.filter Option.isSome = slots.reduceOption.map some := by
  induction slots with
  | nil => rfl
  | cons a slots ih => cases a <;> simp [ih]

theorem Feed.suppliesWithin_listed {slots more : List (Option Byte)} (hnow : f.now = slots ++ more)
    (hsupplies : Supplies bs slots) : f.SuppliesWithin bs slots.length { f with now := more } := by
  obtain ⟨rfl, hlast⟩ := hsupplies
  rw [Feed.SuppliesWithin, ← filter_isSome_eq_map_reduceOption]
  refine Feed.serves_listed hnow fun a ha => ?_
  rw [hlast, Option.mem_map] at ha
  obtain ⟨b, -, rfl⟩ := ha
  rfl

theorem Feed.suppliesWithin_again (bs : List Byte) :
    Feed.SuppliesWithin bs bs.length ⟨[], .again (bs.map some)⟩ ⟨[], .again (bs.map some)⟩ := by
  have hserves := Feed.serves_again (free := Config.rxOracle) (serves := Option.isSome)
    (as := bs.map some) (by simp)
  rwa [List.length_map] at hserves

end SuppliesWithin

end Sys2Proof.Machine
end

section
/-! PROOFS. Whole operations as steps of the machine, over any feed: an operation reads of a feed no more than
its next answer, so that a listed answer may stand for it (40_encode.md R101, 41_decode.md R118). -/

namespace Sys2Proof.Machine

/-- `s` over another line to the board. -/
def State.withTx (s : State) (f : Feed Bool) : State := { s with tx := f }

/-- `s` over another line from the board. -/
def State.withRx (s : State) (f : Feed (Option Byte)) : State := { s with rx := f }

/-- An idle block issues the host's next operation. -/
theorem step_issues {s : State} {i : Instr} {rest : List HostOp} (hidle : s.busy = false)
    (hprogram : s.program = .op i :: rest) : step s = .next ((s.withProgram rest).issued i) :=
  (step_of_op hidle hprogram).trans (exec_idle (s := s.withProgram rest) hidle i)

/-! ### MOVE and FBREQ -/

section Send
variable {i : Instr} {s : State} {n k : Nat} {f g : Feed Bool} {as : List Bool} {rest : List HostOp}

/-- `s`, at which `i` has been issued, once `n` bytes are sent, over the feed `f`. -/
abbrev State.sending (s : State) (i : Instr) (n : Nat) (f : Feed Bool) : State :=
  (s.withTx f).underWay i n f.now

/-- `s`, at which `i` was issued, once all of its encoding is sent, over the feed `f`. -/
abbrev State.sent (s : State) (i : Instr) (f : Feed Bool) : State := (s.withTx f).allSent i f.now

theorem step_underWay (s : State) (i : Instr) (n : Nat) (slots : List Bool) :
    step (s.underWay i n slots) = exec i (s.underWay i n slots) := by
  have hprogress : (s.underWay i n slots).inProgress = i := s.issued_inProgress i
  rw [step_of_busy (s := s.underWay i n slots) (s.issued_busy i), hprogress]

/-- What the sender does at an answer that is listed it does at any answer. -/
theorem step_sending_of_listed {a : Bool} {t : State} (hi : i ≠ .fbrecv)
    (hnext : f.next Config.txOracle = (some a, g))
    (h : exec i ((s.withTx g).underWay i n (a :: g.now)) = .next t) : step (s.sending i n f) = .next t := by
  have hoffer : txOffer (s.sending i n f) = (a, g) := by
    rw [txOffer]
    exact congrArg (fun r => (r.1.getD false, r.2)) hnext
  rw [exec_underWay hi, sendStep_next, SendNext, txOffer_of_now rfl] at h
  rw [step_underWay, exec_underWay hi, sendStep_next, SendNext, hoffer]
  cases i <;> exact h

theorem runSteps_sending (hi : i ≠ .fbrecv) (hf : f.Serves Config.txOracle id as k g)
    (hlength : n + as.length = (encode i).length) (hmore : as ≠ []) :
    runSteps k (s.sending i n f) = .next (s.sent i g) := by
  induction hf generalizing n with
  | done => exact absurd rfl hmore
  | @wait f h g a b as k hnext hrefused _ ih =>
    obtain rfl : a = false := hrefused
    rw [List.length_cons] at hlength
    have hstep : step (s.sending i n f) = .next (s.sending i n h) :=
      step_sending_of_listed hi hnext (exec_underWay_refused hi (by omega))
    rw [runSteps_succ_of_next hstep]
    exact ih (by simpa using hlength) hmore
  | @serve f h g a as k hnext hserved hrest ih =>
    obtain rfl : a = true := hserved
    cases as with
    | nil =>
      cases hrest
      exact runSteps_succ_of_next
        (step_sending_of_listed hi hnext (exec_underWay_last hi hlength)) 0
    | cons b as =>
      rw [List.length_cons, List.length_cons] at hlength
      have hstep : step (s.sending i n f) = .next (s.sending i (n + 1) h) :=
        step_sending_of_listed hi hnext (exec_underWay_accepted hi (by omega))
      rw [runSteps_succ_of_next hstep]
      exact ih (by rw [List.length_cons]; omega) (List.cons_ne_nil b as)

/-- MOVE or FBREQ as the host's next operation, from its issue to its completion. -/
theorem runSteps_sender (hi : i ≠ .fbrecv) (hidle : s.busy = false) (hprogram : s.program = .op i :: rest)
    (htx : s.tx.AcceptsWithin (encode i).length k g) :
    runSteps (k + 1) s = .next ((s.withProgram rest).sent i g) := by
  obtain ⟨as, hlength, hserves⟩ := htx
  have hissue : step s = .next ((s.withProgram rest).sending i 0 s.tx) := by
    rw [step_issues hidle hprogram]
    exact congrArg _ (State.underWay_zero (s := s.withProgram rest) hi rfl).symm
  have hmore : as ≠ [] := List.ne_nil_of_length_pos (hlength ▸ encode_length_pos i)
  rw [runSteps_succ_of_next hissue]
  exact runSteps_sending hi hserves ((Nat.zero_add _).trans hlength) hmore

end Send

/-! ### FBRECV -/

section Receive
variable {s : State} {k : Nat} {f g : Feed (Option Byte)} {as : List (Option Byte)} {bs : List Byte}
  {b0 b1 b2 : Byte} {rest : List HostOp}

/-- `s`, at which FBRECV has been issued, once the bytes `bs` are taken, at most two, over the feed `f`. -/
abbrev State.receiving (s : State) (bs : List Byte) (f : Feed (Option Byte)) : State :=
  (s.withRx f).holding bs f.now

/-- What the receiver does at an answer that is listed it does at any answer. -/
theorem step_receiving_of_listed {a : Option Byte} {t : State} (hnext : f.next Config.rxOracle = (some a, g))
    (h : exec .fbrecv ((s.withRx g).holding bs (a :: g.now)) = .next t) :
    step (s.receiving bs f) = .next t := by
  have hoffer : rxOffer (s.receiving bs f) = (a, g) := by
    rw [rxOffer]
    exact congrArg (fun r => (r.1.join, r.2)) hnext
  rw [exec_holding, recvStep_next, RecvNext, rxOffer_holding] at h
  refine step_of_recvNext rfl rfl ?_
  rw [RecvNext, hoffer]
  exact h

theorem runSteps_receiving (hntab : s.pos.length = ntab s.params.rxMask)
    (hf : f.Serves Config.rxOracle Option.isSome as k g)
    (hbytes : bs.map some ++ as = [some b0, some b1, some b2]) (hmore : as ≠ []) :
    runSteps k (s.receiving bs f) = .next
      ((s.withRx g).reported b0 b1 (decodeFeedback s.params.rxMask b0 b1 b2) g.now) := by
  induction hf generalizing bs with
  | done => exact absurd rfl hmore
  | @wait f h g a b as k hnext hrefused _ ih =>
    obtain rfl : a = none := by simpa using hrefused
    have hstep : step (s.receiving bs f) = .next (s.receiving bs h) :=
      step_receiving_of_listed hnext exec_holding_none
    rw [runSteps_succ_of_next hstep]
    exact ih hbytes hmore
  | @serve f h g a as k hnext hserved hrest ih =>
    obtain ⟨b, rfl⟩ := Option.isSome_iff_exists.mp hserved
    cases as with
    | nil =>
      cases hrest
      obtain ⟨hheld, hlast⟩ := List.append_inj' (t₂ := [some b2]) (s₂ := [b0, b1].map some) hbytes rfl
      obtain rfl : bs = [b0, b1] := List.map_injective_iff.mpr (Option.some_injective _) hheld
      cases hlast
      exact runSteps_succ_of_next
        (step_receiving_of_listed hnext (exec_holding_third (s := s.withRx _) hntab rfl)) 0
    | cons c as =>
      have hfew : bs.length < 2 := by
        have hlength := congrArg List.length hbytes
        simp only [List.length_append, List.length_map, List.length_cons, List.length_nil] at hlength
        omega
      have hstep : step (s.receiving bs f) = .next (s.receiving (bs ++ [b]) h) :=
        step_receiving_of_listed hnext (exec_holding_some hfew)
      rw [runSteps_succ_of_next hstep]
      exact ih (by simpa using hbytes) (List.cons_ne_nil c as)

/-- FBRECV as the host's next operation, from its issue to its completion. -/
theorem runSteps_fbrecv (hidle : s.busy = false) (hprogram : s.program = .op .fbrecv :: rest)
    (hntab : s.pos.length = ntab s.params.rxMask) (hrx : s.rx.SuppliesWithin [b0, b1, b2] k g) :
    runSteps (k + 1) s = .next (((s.withProgram rest).withRx g).reported b0 b1
      (decodeFeedback s.params.rxMask b0 b1 b2) g.now) := by
  have hissue : step s = .next ((s.withProgram rest).receiving [] s.rx) :=
    step_issues hidle hprogram
  rw [runSteps_succ_of_next hissue]
  exact runSteps_receiving (s := s.withProgram rest) hntab hrx rfl (List.cons_ne_nil _ _)

end Receive

end Sys2Proof.Machine
end

section
/-! PROOFS. Runs of a MOVEWAIT that the line and the board serve: its move command, one round trip, and all round
trips up to the exit (42_poller.md R130 to R132, R138, R140). -/

namespace Sys2Proof.Machine

section MoveWait
variable {s : State} {ch : Byte} {pos : Word} {spd : Byte} {rest : List HostOp} {j k : Nat}
  {g : Feed Bool} {g' : Feed (Option Byte)}

/-! ### The steps of the host -/

theorem runSteps_one {t : State} (h : step s = .next t) : runSteps 1 s = .next t :=
  runSteps_succ_of_next h 0

theorem State.withProgram_of_eq {p : List HostOp} (h : s.program = p) : s.withProgram p = s := by
  subst h; rfl

theorem step_of_poll_arrived (hidle : s.busy = false) (hprogram : s.program = .poll ch pos :: rest)
    (hread : readEntry s (tableIndex s.params.rxMask ch) = some pos) :
    step s = .next (s.withProgram rest) :=
  (step_of_poll hidle hprogram).trans (pollTest_of_arrived hread)

theorem step_of_poll_ne {v : Word} (hidle : s.busy = false) (hprogram : s.program = .poll ch pos :: rest)
    (hread : readEntry s (tableIndex s.params.rxMask ch) = some v) (hv : v ≠ pos) :
    step s = .next (s.withProgram (expandRoundTrip ch pos rest)) :=
  (step_of_poll hidle hprogram).trans (pollTest_of_ne hread hv)

/-! ### The move command -/

/-- From MOVEWAIT to its loop. -/
theorem runSteps_moveWait_command (hidle : s.busy = false)
    (hprogram : s.program = .moveWait ch pos spd :: rest) (htx : s.tx.AcceptsWithin 4 k g) :
    runSteps (k + 2) s =
      .next ((s.withProgram (.poll ch pos :: rest)).sent (.move ch pos spd) g) := by
  rw [runSteps_succ_of_next (step_of_moveWait hidle hprogram)]
  exact runSteps_sender (s := s.withProgram (expandMoveWait ch pos spd rest)) (by simp) hidle rfl htx

/-! ### One round trip -/

/-- `s` after a request for `ch` and the response `f`. -/
def State.polled (s : State) (ch : Byte) (f : Frame3) (g : Feed Bool) (g' : Feed (Option Byte)) : State :=
  ((s.sent (.fbreq ch) g).withRx g').reported f.1 f.2.1 (f.decoded s.params.rxMask) g'.now

section Polled
variable (s : State) (ch : Byte) (f : Frame3) (g : Feed Bool) (g' : Feed (Option Byte))

@[simp] theorem State.polled_params : (s.polled ch f g g').params = s.params := rfl
@[simp] theorem State.polled_txHist : (s.polled ch f g g').txHist = s.txHist ++ encodeFbReq ch := rfl
@[simp] theorem State.polled_results :
    (s.polled ch f g g').results = s.results ++ [f.decoded s.params.rxMask] := rfl
@[simp] theorem State.polled_pos : (s.polled ch f g g').pos =
    s.pos.set (f.decoded s.params.rxMask).rch.toNat (f.entry s.params.rxMask) := rfl

end Polled

/-- What the table holds after a round trip. -/
theorem readEntry_polled (hntab : s.pos.length = ntab s.params.rxMask) (f : Frame3) (i : Nat) :
    readEntry (s.polled ch f g g') i = if (f.decoded s.params.rxMask).rch.toNat = i then
      some (f.entry s.params.rxMask) else readEntry s i :=
  readEntry_set (hntab ▸ and_mask_lt_ntab _ _)

/-- From a test that fails to the next test. -/
theorem runSteps_roundTrip {v : Word} {f : Frame3} (hidle : s.busy = false)
    (hprogram : s.program = .poll ch pos :: rest) (hntab : s.pos.length = ntab s.params.rxMask)
    (hread : readEntry s (tableIndex s.params.rxMask ch) = some v) (hv : v ≠ pos)
    (htx : s.tx.AcceptsWithin 2 j g) (hrx : s.rx.SuppliesWithin f.bytes k g') :
    runSteps (1 + (j + 1) + (k + 1)) s = .next (s.polled ch f g g') := by
  have htest : runSteps 1 s = .next (s.withProgram (expandRoundTrip ch pos rest)) :=
    runSteps_one (step_of_poll_ne hidle hprogram hread hv)
  have hrequest := runSteps_sender (s := s.withProgram (expandRoundTrip ch pos rest)) (by simp) hidle rfl htx
  have hresponse := runSteps_fbrecv
    (s := (s.withProgram (.op .fbrecv :: .poll ch pos :: rest)).sent (.fbreq ch) g) rfl rfl hntab hrx
  rw [Nat.add_assoc, runSteps_add htest, runSteps_add hrequest]
  refine hresponse.trans ?_
  rw [← State.withProgram_of_eq hprogram]
  rfl

/-! ### All round trips -/

/-- Writing what an entry holds changes nothing. -/
theorem pos_set_of_readEntry {i : Nat} {v : Word} (h : readEntry s i = some v) : s.pos.set i v = s.pos := by
  obtain ⟨hi, rfl⟩ := List.getElem?_eq_some_iff.mp h
  exact List.set_getElem_self hi

/-- The responses report the entry `idx`, and of the values it goes through, from `held` on, exactly the last is
`pos` (R140 (c), (d)). -/
structure Brings (m : RxMask) (idx : Nat) (pos held : Word) (responses : List Frame3) : Prop where
  reports : ∀ f ∈ responses, f.reports m idx
  last : (held :: responses.map (Frame3.entry m)).getLast? = some pos
  earlier : ∀ v ∈ (held :: responses.map (Frame3.entry m)).dropLast, v ≠ pos

theorem Brings.held_eq {m : RxMask} {idx : Nat} {held : Word} (h : Brings m idx pos held []) : held = pos :=
  Option.some.inj h.last

theorem Brings.cons {m : RxMask} {idx : Nat} {held : Word} {f : Frame3} {responses : List Frame3}
    (h : Brings m idx pos held (f :: responses)) :
    held ≠ pos ∧ f.reports m idx ∧ Brings m idx pos (f.entry m) responses := by
  obtain ⟨hreports, hlast, hearlier⟩ := h
  obtain ⟨hf, hreports⟩ := List.forall_mem_cons.mp hreports
  obtain ⟨hheld, hearlier⟩ := List.forall_mem_cons.mp hearlier
  exact ⟨hheld, hf, hreports, hlast, hearlier⟩

/-- `t` is `s` once MOVEWAIT has left its loop after the given responses, with `pos` in the tested entry; the
bytes on the line since are `bytes`, the environment's answers to come are `g'`, and `rest` comes next (R138). -/
structure State.LeavesLoop (s t : State) (ch : Byte) (pos : Word) (rest : List HostOp)
    (responses : List Frame3) (bytes : List Byte) (g' : Feed (Option Byte)) : Prop where
  idle : t.busy = false
  program : t.program = rest
  txHist : t.txHist = s.txHist ++ bytes
  pos : t.pos = s.pos.set (tableIndex s.params.rxMask ch) pos
  results : t.results = s.results ++ responses.map (Frame3.decoded s.params.rxMask)
  rx : t.rx = g'
  params : t.params = s.params

/-- The loop, from its head on: the entry holds the target after the last response and not before. -/
theorem runSteps_loop {held : Word} {responses : List Frame3} (hidle : s.busy = false)
    (hprogram : s.program = .poll ch pos :: rest) (hntab : s.pos.length = ntab s.params.rxMask)
    (hread : readEntry s (tableIndex s.params.rxMask ch) = some held)
    (hbrings : Brings s.params.rxMask (tableIndex s.params.rxMask ch) pos held responses)
    (htx : s.tx.AcceptsWithin (2 * responses.length) j g)
    (hrx : s.rx.SuppliesWithin (responses.flatMap Frame3.bytes) k g') :
    ∃ t, runSteps (3 * responses.length + j + k + 1) s = .next t ∧ s.LeavesLoop t ch pos rest responses
      (List.replicate responses.length (encodeFbReq ch)).flatten g' := by
  induction responses generalizing s held j k with
  | nil =>
    obtain rfl : held = pos := hbrings.held_eq
    obtain ⟨rfl, rfl⟩ := htx.of_zero
    obtain ⟨rfl, rfl⟩ := Feed.Serves.of_nil hrx
    exact ⟨s.withProgram rest, runSteps_one (step_of_poll_arrived hidle hprogram hread), hidle, rfl,
      (List.append_nil _).symm, (pos_set_of_readEntry hread).symm, (List.append_nil _).symm, rfl, rfl⟩
  | cons f responses ih =>
    obtain ⟨hheld, hf, hmore⟩ := hbrings.cons
    rw [List.length_cons, Nat.mul_succ, Nat.add_comm] at htx
    obtain ⟨j₁, j₂, h, rfl, htx₁, htx₂⟩ := htx.split
    obtain ⟨k₁, k₂, h', rfl, hrx₁, hrx₂⟩ := Feed.SuppliesWithin.split hrx
    have htrip := runSteps_roundTrip hidle hprogram hntab hread hheld htx₁ hrx₁
    have hread' : readEntry (s.polled ch f h h') (tableIndex s.params.rxMask ch) =
        some (f.entry s.params.rxMask) := (readEntry_polled hntab f _).trans (if_pos hf)
    obtain ⟨t, hrun, ht⟩ := ih (s := s.polled ch f h h') rfl hprogram (by simpa using hntab) hread' hmore
      htx₂ hrx₂
    refine ⟨t, ?_, ht.idle, ht.program, ?_, ?_, ?_, ht.rx, ht.params⟩
    · rw [← hrun, ← runSteps_add htrip, List.length_cons]
      congr 1
      omega
    · rw [ht.txHist, State.polled_txHist, List.append_assoc, List.length_cons, List.replicate_succ,
        List.flatten_cons]
    · rw [ht.pos, State.polled_params, State.polled_pos, hf, List.set_set]
    · rw [ht.results, State.polled_results, State.polled_params, List.append_assoc, List.map_cons,
        List.singleton_append]

/-- MOVEWAIT from its expansion to its exit, over any line and board that serve it. -/
theorem runSteps_moveWait {held : Word} {responses : List Frame3} (hwf : s.wf = true) (hidle : s.busy = false)
    (hprogram : s.program = .moveWait ch pos spd :: rest)
    (hread : readEntry s (tableIndex s.params.rxMask ch) = some held)
    (hbrings : Brings s.params.rxMask (tableIndex s.params.rxMask ch) pos held responses)
    (htx : s.tx.AcceptsWithin (4 + 2 * responses.length) j g)
    (hrx : s.rx.SuppliesWithin (responses.flatMap Frame3.bytes) k g') :
    ∃ t, runSteps (3 + 3 * responses.length + j + k) s = .next t ∧ s.LeavesLoop t ch pos rest responses
      (encodeMove ch pos spd ++ (List.replicate responses.length (encodeFbReq ch)).flatten) g' := by
  obtain ⟨hntab, -⟩ := State.wf_iff.mp hwf
  obtain ⟨j₁, j₂, h, rfl, htx₁, htx₂⟩ := htx.split
  have hcommand := runSteps_moveWait_command hidle hprogram htx₁
  obtain ⟨t, hrun, ht⟩ := runSteps_loop (s := (s.withProgram (.poll ch pos :: rest)).sent (.move ch pos spd) h)
    rfl rfl hntab hread hbrings htx₂ hrx
  refine ⟨t, ?_, ht.idle, ht.program, ?_, ht.pos, ht.results, ht.rx, ht.params⟩
  · rw [← hrun, ← runSteps_add hcommand]
    congr 1
    omega
  · exact ht.txHist.trans (List.append_assoc _ _ _)

end MoveWait

/-! ### MOVEWAIT, one position after the other -/

/-- Settles O29: the expansion is a step of the idle block. -/
theorem moveWaitExpands : Obligations.MoveWaitExpands := fun _ _ _ _ _ => step_of_moveWait

/-- Settles O30: the test takes one branch where the entry is the target, and the other where it is not. -/
theorem exitTestIsEquality : Obligations.ExitTestIsEquality := by
  intro s ch pos v rest hidle hprogram hread
  exact ⟨fun hv => step_of_poll_arrived hidle hprogram (hv ▸ hread),
    fun hv => step_of_poll_ne hidle hprogram hread hv⟩

/-- Settles O31: once the command is sent the entry still holds the target, so the first test leaves the loop. -/
theorem zeroRoundTrips : Obligations.ZeroRoundTrips := by
  intro s ch pos spd rest slots more hidle hprogram hread hnow haccepts
  have hcommand := runSteps_moveWait_command hidle hprogram (Feed.acceptsWithin_listed hnow haccepts)
  rw [hidle]
  exact (runSteps_add hcommand 1).trans (runSteps_one (step_of_poll_arrived rfl rfl hread))

/-! ### MOVEWAIT as a whole -/

theorem length_flatMap_bytes (responses : List Frame3) :
    (responses.flatMap Frame3.bytes).length = 3 * responses.length := by
  have hthree : (fun f : Frame3 => f.bytes.length) = fun _ => 3 := rfl
  rw [List.length_flatMap, hthree, List.map_const', List.sum_const_nat, Nat.mul_comm]

/-- Settles O34: a line that accepts at once takes `4 + 2 n` attempts, a board that answers at once `3 n`. -/
theorem moveWaitCompletes : Obligations.MoveWaitCompletes := by
  intro s ch pos held spd rest responses more hwf hidle hprogram hline hnow hreports hread hlast hearlier
  obtain ⟨g, htx, -⟩ := hline.acceptsWithin (4 + 2 * responses.length)
  have hrx := Feed.suppliesWithin_listed hnow (Supplies.map_some (responses.flatMap Frame3.bytes))
  obtain ⟨t, hrun, ht⟩ := runSteps_moveWait hwf hidle hprogram hread ⟨hreports, hlast, hearlier⟩ htx hrx
  refine ⟨t, ?_, ht.idle, ht.program, ?_, ht.pos, ht.results, ht.rx, ht.params⟩
  · rw [← hrun, List.length_map, length_flatMap_bytes]
    congr 1
    omega
  · rw [ht.txHist, List.append_assoc]

/-- Settles O52: a line that accepts in the end takes some number of attempts, and so does a board that waits. -/
theorem moveWaitCompletesDespiteWaits : Obligations.MoveWaitCompletesDespiteWaits := by
  intro s ch pos held spd rest responses slots more hwf hidle hprogram hline hnow hsupplies hreports hread hlast
    hearlier
  obtain ⟨j, g, htx⟩ := hline.acceptsWithin (4 + 2 * responses.length)
  have hrx := Feed.suppliesWithin_listed hnow hsupplies
  obtain ⟨t, hrun, ht⟩ := runSteps_moveWait hwf hidle hprogram hread ⟨hreports, hlast, hearlier⟩ htx hrx
  exact ⟨_, t, hrun, ht.idle, ht.program, ht.txHist.trans (List.append_assoc _ _ _).symm, ht.pos, ht.results,
    ht.rx, ht.params⟩

end Sys2Proof.Machine
end

section
/-! PROOFS. A MOVEWAIT that hangs: the board gives one answer for ever, after which the exit test fails as it did
before (42_poller.md R133, 60_exceptions.md R157). -/

namespace Sys2Proof.Machine

/-- `s` stands before an exit test that fails, over a line that accepts every byte and a board that gives the
answer `f` for ever, which does not bring the entry to the target. -/
structure State.PollsInVain (s : State) (ch : Byte) (pos : Word) (rest : List HostOp) (f : Frame3) : Prop where
  test : s.failsTest ch pos rest
  table : s.pos.length = ntab s.params.rxMask
  line : s.tx.alwaysAccepts
  board : s.rx = ⟨[], .again (f.bytes.map some)⟩
  answer : f.reports s.params.rxMask (tableIndex s.params.rxMask ch) → f.entry s.params.rxMask ≠ pos

section Vain
variable {s : State} {ch : Byte} {pos : Word} {rest : List HostOp} {f : Frame3}

/-- The response writes another value into the tested entry, or does not write it. -/
theorem State.PollsInVain.roundTrip (h : s.PollsInVain ch pos rest f) :
    ∃ t, runSteps 8 s = .next t ∧ t.PollsInVain ch pos rest f ∧ t.txHist = s.txHist ++ encodeFbReq ch := by
  obtain ⟨⟨hidle, hprogram, hfails⟩, htable, hline, hboard, hanswer⟩ := h
  obtain ⟨g, htx, hg⟩ := hline.acceptsWithin 2
  have hrx : s.rx.SuppliesWithin f.bytes 3 ⟨[], .again (f.bytes.map some)⟩ :=
    hboard ▸ Feed.suppliesWithin_again f.bytes
  obtain ⟨v, hread⟩ := readEntry_isSome (htable ▸ tableIndex_lt_ntab s.params.rxMask ch)
  have hv : v ≠ pos := fun hv => hfails (hv ▸ hread)
  refine ⟨_, runSteps_roundTrip hidle hprogram htable hread hv htx hrx,
    ⟨⟨rfl, hprogram, ?_⟩, by simpa using htable, hg, rfl, hanswer⟩, rfl⟩
  rw [State.polled_params, readEntry_polled htable]
  split
  · next hreports => exact fun heq => hanswer hreports (Option.some.inj heq)
  · exact hfails

/-- Any number of round trips, two bytes sent by each. -/
theorem State.PollsInVain.roundTrips (h : s.PollsInVain ch pos rest f) (n : Nat) :
    ∃ t, runSteps (8 * n) s = .next t ∧ t.PollsInVain ch pos rest f ∧ 2 * n ≤ t.txHist.length := by
  induction n with
  | zero => exact ⟨s, rfl, h, Nat.zero_le _⟩
  | succ n ih =>
    obtain ⟨t, hrun, ht, hlength⟩ := ih
    obtain ⟨u, hrun', hu, hhist⟩ := ht.roundTrip
    refine ⟨u, (runSteps_add hrun 8).trans hrun', hu, ?_⟩
    rw [hhist, List.length_append, encodeFbReq_length]
    omega

theorem State.PollsInVain.hangs (h : s.PollsInVain ch pos rest f) : s.hangs := by
  refine ⟨ch, pos, rest, fun n => ?_⟩
  obtain ⟨t, hrun, ht, -⟩ := h.roundTrips n
  exact ⟨8 * n, t, by omega, hrun, ht.test⟩

end Vain

/-- Settles O37: the move command leads to the first failing test, and every round trip to the next one. -/
theorem unansweredTargetHangs : Obligations.UnansweredTargetHangs := by
  intro s ch pos spd rest f hwf hidle hprogram hline hnow htail hfails hanswer
  obtain ⟨htable, -⟩ := State.wf_iff.mp hwf
  obtain ⟨g, htx, hg⟩ := hline.acceptsWithin 4
  have hcommand := runSteps_moveWait_command hidle hprogram htx
  have hboard : s.rx = ⟨[], .again (f.bytes.map some)⟩ := by rw [← hnow, ← htail]
  have hvain : State.PollsInVain ((s.withProgram (.poll ch pos :: rest)).sent (.move ch pos spd) g)
      ch pos rest f := ⟨⟨rfl, rfl, hfails⟩, htable, hg, hboard, hanswer⟩
  refine ⟨State.hangs_of_run hcommand hvain.hangs, fun n => ?_⟩
  obtain ⟨t, hrun, -, hlength⟩ := hvain.roundTrips n
  exact ⟨_, t, (runSteps_add hcommand _).trans hrun, by omega⟩

end Sys2Proof.Machine
end

section
/-! PROOFS. What a MOVEWAIT has left at each point of its run, under no premise about the environment: an invariant
with one case for each position in its expansion (42_poller.md R130, R138). -/

namespace Sys2Proof.Machine

/-! ### What has been sent and received since a state -/

/-- From `f` on, `m` bytes have been taken in order, and `g` is to come, where all the answers of `f` are listed. -/
def Feed.Took (f g : Feed (Option Byte)) (m : Nat) : Prop :=
  f.tail = .again [] → g.tail = .again [] ∧
    ∃ taken : List Byte, f.now.reduceOption = taken ++ g.now.reduceOption ∧ taken.length = m

/-- A run from `s` to `u` has sent `bytes`, recorded `n` results and taken `m` bytes. -/
structure State.Left (s u : State) (bytes : List Byte) (n m : Nat) : Prop where
  params : u.params = s.params
  txHist : u.txHist = s.txHist ++ bytes
  results : u.results.length = s.results.length + n
  took : s.rx.Took u.rx m

section Left
variable {s u t : State} {bytes : List Byte} {n m : Nat}

theorem Feed.Took.next {f g : Feed (Option Byte)} (h : f.Took g m) :
    f.Took (g.next Config.rxOracle).2 (m + (g.next Config.rxOracle).1.join.toList.length) := by
  intro hf
  obtain ⟨hg, taken, heq, rfl⟩ := h hf
  obtain ⟨now, tail⟩ := g
  subst hg
  match now with
  | [] => exact ⟨rfl, taken, heq, rfl⟩
  | none :: now => exact ⟨rfl, taken, by rw [heq, List.reduceOption_cons_of_none]; rfl, rfl⟩
  | some b :: now =>
    exact ⟨rfl, taken ++ [b], by rw [heq, List.reduceOption_cons_of_some, List.append_assoc]; rfl,
      List.length_append⟩

theorem State.Left.took_of_none (h : s.Left u bytes n m) (hoffer : (rxOffer u).1 = none) :
    s.rx.Took (rxOffer u).2 m := by
  have hnext := h.took.next
  rwa [show (u.rx.next Config.rxOracle).1.join = none from hoffer] at hnext

theorem State.Left.took_of_some {b : Byte} (h : s.Left u bytes n m) (hoffer : (rxOffer u).1 = some b) :
    s.rx.Took (rxOffer u).2 (m + 1) := by
  have hnext := h.took.next
  rwa [show (u.rx.next Config.rxOracle).1.join = some b from hoffer] at hnext

theorem State.Left.refl (s : State) : s.Left s [] 0 0 :=
  ⟨rfl, (List.append_nil _).symm, rfl, fun h => ⟨h, [], rfl, rfl⟩⟩

/-- The host neither sends nor receives. -/
theorem State.Left.step_idle (h : s.Left u bytes n m) (hidle : u.busy = false) (hstep : step u = .next t) :
    s.Left t bytes n m := by
  obtain ⟨hparams, -, hhist, hresults, -, hrx⟩ := step_rest_of_idle hidle hstep
  exact ⟨hparams.trans h.params, hhist.trans h.txHist, by rw [hresults, h.results], by rw [hrx]; exact h.took⟩

end Left

/-! ### An idle block, a sender and a receiver on the way -/

/-- A run from `s` to `u` has left what it has, and at `u` the block is idle and `program` is to come. -/
structure State.Idles (s u : State) (program : List HostOp) (bytes : List Byte) (n m : Nat) : Prop where
  idle : u.busy = false
  program : u.program = program
  left : s.Left u bytes n m

/-- At `u` MOVE or FBREQ is in progress, before whose issue a run from `s` had sent `bytes`. -/
structure State.Sends (s u : State) (i : Instr) (program : List HostOp) (bytes : List Byte) (n m : Nat) :
    Prop where
  busy : u.busy = true
  sender : i ≠ .fbrecv
  inProgress : u.inProgress = i
  program : u.program = program
  left : s.Left u (bytes ++ (encode i).take u.txi) n m

/-- At `u` FBRECV is in progress, before whose issue a run from `s` had taken `m` bytes. -/
structure State.Receives (s u : State) (program : List HostOp) (bytes : List Byte) (n m : Nat) : Prop where
  busy : u.busy = true
  inProgress : u.inProgress = .fbrecv
  program : u.program = program
  left : s.Left u bytes n (m + u.rxi)

section OnTheWay
variable {s u t : State} {i : Instr} {program : List HostOp} {bytes : List Byte} {n m : Nat}

theorem State.opk_eq_fbrecv_iff : u.opk = .fbrecv ↔ u.inProgress = .fbrecv := by
  cases ho : u.opk <;> simp [State.inProgress, ho]

theorem step_inProgress_of_busy (hbusy : u.busy = true) (hstep : step u = .next t) :
    t.inProgress = u.inProgress := by
  obtain ⟨hopk, hlch, hlpos, hlspd, -⟩ := operandsStayLatched u t hbusy hstep
  simp only [State.inProgress, hopk, hlch, hlpos, hlspd]

theorem State.Idles.issues (h : s.Idles u (.op i :: program) bytes n m) (hstep : step u = .next t) :
    t = (u.withProgram program).issued i := by
  rw [step_issues h.idle h.program] at hstep
  cases hstep
  rfl

theorem State.Idles.sends (h : s.Idles u (.op i :: program) bytes n m) (hi : i ≠ .fbrecv)
    (hstep : step u = .next t) : s.Sends t i program bytes n m := by
  have hleft := h.left.step_idle h.idle hstep
  obtain rfl := h.issues hstep
  have htake : bytes ++ (encode i).take ((u.withProgram program).issued i).txi = bytes := by
    cases i with
    | move ch pos spd => exact List.append_nil bytes
    | fbreq ch => exact List.append_nil bytes
    | fbrecv => exact absurd rfl hi
  obtain ⟨-, -, -, hprogram⟩ := (u.withProgram program).issued_rest_of_sender hi
  exact ⟨State.issued_busy _ i, hi, State.issued_inProgress _ i, hprogram, htake.symm ▸ hleft⟩

theorem State.Idles.receives (h : s.Idles u (.op .fbrecv :: program) bytes n m) (hstep : step u = .next t) :
    s.Receives t program bytes n m := by
  have hleft := h.left.step_idle h.idle hstep
  obtain rfl := h.issues hstep
  exact ⟨rfl, rfl, rfl, hleft⟩

/-- A send step waits, sends a byte, or sends the last one (R101). -/
theorem State.Sends.step (h : s.Sends u i program bytes n m) (hstep : step u = .next t) :
    s.Sends t i program bytes n m ∨ s.Idles t program (bytes ++ encode i) n m := by
  obtain ⟨hbusy, hi, hprogress, hprogram, hparams, hhist, hresults, htook⟩ := h
  have hprogress' := (step_inProgress_of_busy hbusy hstep).trans hprogress
  have hprogram' := (step_program_of_busy hbusy hstep).trans hprogram
  have hsend : SendNext (encode i) u t :=
    sendNext_of_exec_busy hi hbusy (by rwa [step_of_busy hbusy, hprogress] at hstep)
  obtain ⟨b, hb, hcases⟩ := hsend
  have hhist' : u.txHist ++ [b] = s.txHist ++ (bytes ++ (encode i).take (u.txi.val + 1)) := by
    rw [hhist, List.take_add_one, hb]
    simp
  rcases hcases with ⟨-, rfl⟩ | ⟨-, hmore, rfl⟩ | ⟨-, hlast, rfl⟩
  · exact .inl ⟨hbusy, hi, hprogress', hprogram', hparams, hhist, hresults, htook⟩
  · have htxi : (u.txi + 1).val = u.txi.val + 1 :=
      Nat.mod_eq_of_lt (Nat.lt_of_lt_of_le hmore (encode_length_le_four i))
    exact .inl ⟨hbusy, hi, hprogress', hprogram', hparams, htxi.symm ▸ hhist', hresults, htook⟩
  · rw [List.take_of_length_le hlast] at hhist'
    exact .inr ⟨rfl, hprogram', hparams, hhist', hresults, htook⟩

/-- A receive step waits, takes a byte, or takes the third one and records the result (R118). -/
theorem State.Receives.step (h : s.Receives u program bytes n m) (hstep : step u = .next t) :
    s.Receives t program bytes n m ∨ s.Idles t program bytes (n + 1) (m + 3) := by
  obtain ⟨hbusy, hprogress, hprogram, hleft⟩ := h
  have hprogress' := (step_inProgress_of_busy hbusy hstep).trans hprogress
  have hprogram' := (step_program_of_busy hbusy hstep).trans hprogram
  have hrecv : RecvNext u t := by
    rcases step_next_of_busy hbusy hstep with ⟨hkind, -⟩ | ⟨-, hrecv⟩
    · exact absurd (State.opk_eq_fbrecv_iff.mpr hprogress) hkind
    · exact hrecv
  have ⟨hparams, hhist, hresults, _⟩ := hleft
  rcases hrecv with ⟨hoffer, rfl⟩ | ⟨b, hoffer, hcases⟩
  · exact .inl ⟨hbusy, hprogress', hprogram', hparams, hhist, hresults, hleft.took_of_none hoffer⟩
  · have htook := hleft.took_of_some hoffer
    rcases hcases with ⟨hrxi, rfl⟩ | ⟨hrxi, rfl⟩ | ⟨hrxi, -, rfl⟩
    · rw [hrxi] at htook
      exact .inl ⟨hbusy, hprogress', hprogram', hparams, hhist, hresults, htook⟩
    · rw [hrxi] at htook
      exact .inl ⟨hbusy, hprogress', hprogram', hparams, hhist, hresults, htook⟩
    · rw [hrxi] at htook
      have hresults' : u.results.length + 1 = s.results.length + (n + 1) := congrArg (· + 1) hresults
      exact .inr ⟨rfl, hprogram', hparams, hhist, List.length_append.trans hresults', htook⟩

end OnTheWay

/-! ### The positions of a MOVEWAIT -/

/-- What a MOVEWAIT has sent after `n` round trips (R138). -/
def movedAndPolled (ch : Byte) (pos : Word) (spd : Byte) (n : Nat) : List Byte :=
  encodeMove ch pos spd ++ (List.replicate n (encodeFbReq ch)).flatten

theorem movedAndPolled_succ (ch : Byte) (pos : Word) (spd : Byte) (n : Nat) :
    movedAndPolled ch pos spd n ++ encodeFbReq ch = movedAndPolled ch pos spd (n + 1) := by
  rw [movedAndPolled, List.append_assoc, movedAndPolled, List.replicate_succ', List.flatten_concat]

/-- The positions of a MOVEWAIT that `s` begins, from its expansion up to a test that holds (R130). -/
inductive State.Within (s : State) (ch : Byte) (pos : Word) (spd : Byte) (rest : List HostOp) (u : State) :
    Prop where
  | begun (h : s.Idles u (.moveWait ch pos spd :: rest) [] 0 0)
  | expanded (h : s.Idles u (expandMoveWait ch pos spd rest) [] 0 0)
  | moving (h : s.Sends u (.move ch pos spd) (.poll ch pos :: rest) [] 0 0)
  | testing (n : Nat) (h : s.Idles u (.poll ch pos :: rest) (movedAndPolled ch pos spd n) n (3 * n))
  | failed (n : Nat) (h : s.Idles u (expandRoundTrip ch pos rest) (movedAndPolled ch pos spd n) n (3 * n))
  | requesting (n : Nat) (h : s.Sends u (.fbreq ch) (.op .fbrecv :: .poll ch pos :: rest)
      (movedAndPolled ch pos spd n) n (3 * n))
  | requested (n : Nat) (h : s.Idles u (.op .fbrecv :: .poll ch pos :: rest)
      (movedAndPolled ch pos spd (n + 1)) n (3 * n))
  | receiving (n : Nat) (h : s.Receives u (.poll ch pos :: rest)
      (movedAndPolled ch pos spd (n + 1)) n (3 * n))

/-- The MOVEWAIT that `s` began is over at `u` (R138). -/
structure State.Completes (s u : State) (ch : Byte) (pos : Word) (spd : Byte) (rest : List HostOp) (n : Nat) :
    Prop where
  idles : s.Idles u rest (movedAndPolled ch pos spd n) n (3 * n)
  arrived : readEntry u (tableIndex s.params.rxMask ch) = some pos

section Within
variable {s u t : State} {ch : Byte} {pos : Word} {spd : Byte} {rest : List HostOp} {k : Nat}

theorem State.Idles.of_withProgram {p p' : List HostOp} {bytes : List Byte} {n m : Nat}
    (h : s.Idles u p bytes n m) : s.Idles (u.withProgram p') p' bytes n m :=
  ⟨h.idle, rfl, h.left.params, h.left.txHist, h.left.results, h.left.took⟩

theorem State.Idles.tests {bytes : List Byte} {n m : Nat} (h : s.Idles u (.poll ch pos :: rest) bytes n m)
    (hstep : step u = .next t) :
    s.Idles t (expandRoundTrip ch pos rest) bytes n m ∨
    s.Idles t rest bytes n m ∧ readEntry t (tableIndex s.params.rxMask ch) = some pos := by
  rw [step_of_poll h.idle h.program] at hstep
  rcases pollTest_cases ch pos rest u with ⟨-, heq⟩ | ⟨hread, heq⟩ | ⟨v, -, -, heq⟩
  · rw [heq] at hstep; cases hstep
  · rw [heq] at hstep; cases hstep
    exact .inr ⟨h.of_withProgram, by rwa [h.left.params] at hread⟩
  · rw [heq] at hstep; cases hstep
    exact .inl h.of_withProgram

/-- A step goes on to another position, or completes the MOVEWAIT. -/
theorem State.Within.step (h : s.Within ch pos spd rest u) (hstep : step u = .next t) :
    s.Within ch pos spd rest t ∨ ∃ n, s.Completes t ch pos spd rest n := by
  cases h with
  | begun h =>
    rw [step_of_moveWait h.idle h.program] at hstep
    cases hstep
    exact .inl (.expanded h.of_withProgram)
  | expanded h => exact .inl (.moving (h.sends (by simp) hstep))
  | moving h => exact .inl ((h.step hstep).elim .moving (.testing 0))
  | testing n h =>
    rcases h.tests hstep with hfailed | ⟨hidles, harrived⟩
    · exact .inl (.failed n hfailed)
    · exact .inr ⟨n, hidles, harrived⟩
  | failed n h => exact .inl (.requesting n (h.sends (by simp) hstep))
  | requesting n h =>
    rcases h.step hstep with hmore | hdone
    · exact .inl (.requesting n hmore)
    · exact .inl (.requested n (movedAndPolled_succ ch pos spd n ▸ hdone))
  | requested n h => exact .inl (.receiving n (h.receives hstep))
  | receiving n h => exact .inl ((h.step hstep).elim (.receiving n) (.testing (n + 1)))

/-- Every run of a MOVEWAIT is still within it, or has completed it at a first state. -/
theorem State.Within.run (h : s.Within ch pos spd rest u) (hrun : runSteps k u = .next t) :
    s.Within ch pos spd rest t ∨ ∃ i j v n, i + j = k ∧ runSteps i u = .next v ∧
      s.Completes v ch pos spd rest n ∧ runSteps j v = .next t := by
  induction k generalizing u with
  | zero => cases hrun; exact .inl h
  | succ k ih =>
    obtain ⟨v, hstep, hrun⟩ := runSteps_succ hrun
    rcases h.step hstep with hwithin | ⟨n, hcompletes⟩
    · refine (ih hwithin hrun).imp_right ?_
      rintro ⟨i, j, w, n, rfl, hi, hcompletes, hj⟩
      exact ⟨i + 1, j, w, n, by omega, (runSteps_succ_of_next hstep i).trans hi, hcompletes, hj⟩
    · exact .inr ⟨1, k, v, n, Nat.add_comm 1 k, runSteps_one hstep, hcompletes, hrun⟩

theorem State.within_of_moveWait (hidle : s.busy = false) (hprogram : s.program = .moveWait ch pos spd :: rest) :
    s.Within ch pos spd rest s := .begun ⟨hidle, hprogram, .refl s⟩

/-- Within a MOVEWAIT the host has more to do than what stands after it. -/
theorem State.Within.program_ne (h : s.Within ch pos spd rest u) : u.program ≠ rest := by
  suffices hlength : rest.length < u.program.length by
    intro heq
    rw [heq] at hlength
    exact Nat.lt_irrefl _ hlength
  cases h <;> next h => simp +arith [h.program, expandMoveWait, expandRoundTrip]

theorem State.Completes.trace {n : Nat} (h : s.Completes u ch pos spd rest n) :
    u.txHist = s.txHist ++ encodeMove ch pos spd ++ (List.replicate n (encodeFbReq ch)).flatten ∧
      readEntry u (tableIndex s.params.rxMask ch) = some pos ∧
      u.results.length = s.results.length + n ∧
      (s.rx.tail = .again [] → ∃ taken : List Byte,
        s.rx.now.reduceOption = taken ++ u.rx.now.reduceOption ∧ taken.length = 3 * n) :=
  ⟨h.idles.left.txHist.trans (List.append_assoc _ _ _).symm, h.arrived, h.idles.left.results,
    fun htail => (h.idles.left.took htail).2⟩

end Within

/-- Settles O53: a state whose program is what follows the MOVEWAIT is not within it, so it has been completed;
the state at which it was is the first such state. -/
theorem completedMoveWaitInAProgram : Obligations.CompletedMoveWaitInAProgram := by
  intro s t ch pos spd rest k hidle hprogram hrun ht hfirst
  rcases (State.within_of_moveWait hidle hprogram).run hrun with hwithin | ⟨i, j, v, n, rfl, hi, hcompletes, hj⟩
  · exact absurd ht hwithin.program_ne
  · have hfirst_eq : j = 0 := by
      by_contra hne
      exact hfirst i v (by omega) hi hcompletes.idles.program
    subst hfirst_eq
    cases hj
    exact ⟨hcompletes.idles.idle, n, hcompletes.trace⟩

theorem runSteps_of_nil {s t : State} {k : Nat} (hidle : s.busy = false) (hprogram : s.program = [])
    (hrun : runSteps k s = .next t) : t = s := by
  refine runSteps_invariant (Inv := (· = s)) ?_ rfl hrun
  rintro _ u rfl hstep
  rw [step_of_nil hidle hprogram] at hstep
  cases hstep
  rfl

theorem State.finished_iff {s : State} : s.finished = true ↔ s.busy = false ∧ s.program = [] := by
  simp [State.finished]

/-- Settles O35: with nothing after it, a completed MOVEWAIT leaves the machine standing still. -/
theorem completedMoveWaitTrace : Obligations.CompletedMoveWaitTrace := by
  intro s t ch pos spd k hidle hprogram hrun hfinished
  obtain ⟨-, ht⟩ := State.finished_iff.mp hfinished
  rcases (State.within_of_moveWait hidle hprogram).run hrun with hwithin | ⟨i, j, v, n, -, -, hcompletes, hj⟩
  · exact absurd ht hwithin.program_ne
  · obtain rfl := runSteps_of_nil hcompletes.idles.idle hcompletes.idles.program hj
    exact ⟨n, hcompletes.trace⟩

/-! ### A target beyond 14 bits -/

/-- A step writes no entry but by decoding a position, which has 14 bits (R23, R136). -/
theorem step_readEntry {s t : State} {i : Nat} {v : Word} (hstep : step s = .next t)
    (hread : readEntry t i = some v) (hv : 16384 ≤ v.toNat) : readEntry s i = some v := by
  by_cases hpos : t.pos = s.pos
  · rwa [readEntry_eq_of_pos hpos] at hread
  · obtain ⟨-, -, -, b, -, hset, -⟩ := onlyTheThirdByteWritesTheTable s t hstep hpos
    have hfits : entryOf (decodePosition s.rb1 b) ≠ v := by
      rintro rfl
      rw [entryOf_toNat] at hv
      exact absurd (decodePosition s.rb1 b).isLt (Nat.not_lt.mpr hv)
    rw [readEntry, hset, List.getElem?_set] at hread
    split at hread
    · next hindex =>
      split at hread
      · exact absurd (Option.some.inj hread) hfits
      · cases hread
    · exact hread

/-- Settles O36: a completed MOVEWAIT has the target in its entry, where no step has put it. -/
theorem unreachableTargetNeverCompletes : Obligations.UnreachableTargetNeverCompletes := by
  intro s t ch pos spd k hidle hprogram hpos hfails hrun
  rw [← Bool.not_eq_true]
  intro hfinished
  obtain ⟨n, -, hread, -⟩ := completedMoveWaitTrace s t ch pos spd k hidle hprogram hrun hfinished
  refine runSteps_invariant (Inv := fun u => readEntry u (tableIndex s.params.rxMask ch) ≠ some pos)
    (fun u v hu hstep hv => hu (step_readEntry hstep hv hpos)) hfails hrun hread

end Sys2Proof.Machine
end

section
/-! PROOFS. A response inside a MOVEWAIT, and the poller's conceptual states (42_poller.md R134, R135). -/

namespace Sys2Proof.Machine

/-! ### A response for another channel -/

/-- Settles O32: the third byte writes the reported entry, another than the tested one, so the test finds what
it found before and asks again. -/
theorem responseForAnotherChannel : Obligations.ResponseForAnotherChannel := by
  intro s ch pos v rest b r hwf hbusy hkind hrxi hprogram hoffer hr hother hread hv
  obtain ⟨hntab, -⟩ := State.wf_iff.mp hwf
  have hindex : r.rch.toNat < s.pos.length := by
    rw [hntab, hr]; exact and_mask_lt_ntab _ _
  have hbyte : step s = .next (State.tookThird { s with pos := s.pos.set r.rch.toNat (entryOf r.rpos) } r
      (rxOffer s).2) := by
    rw [step_of_busy hbusy, State.inProgress_of_fbrecv hkind, exec_fbrecv_resume hbusy hkind]
    exact recvStep_of_third hoffer hrxi hntab hr
  have hkept := (readEntry_set (v := entryOf r.rpos) hindex).trans ((if_neg hother).trans hread)
  exact ⟨_, (runSteps_succ_of_next hbyte 1).trans (runSteps_one (step_of_poll_ne rfl hprogram hkept hv)),
    (readEntry_set hindex).trans (if_pos rfl), hkept, rfl⟩

/-! ### Where Moving, Polling and Arrived are -/

section Phase
variable {s t : State} {ch : Byte} {pos v : Word} {rest : List HostOp}

theorem State.pollerPhase_of_poll (hidle : s.busy = false) (hprogram : s.program = .poll ch pos :: rest)
    (hread : readEntry s (tableIndex s.params.rxMask ch) = some v) :
    s.pollerPhase = some (if v = pos then .arrived else .moving) := by
  simp [State.pollerPhase, hidle, hprogram, hread, arrived]

theorem State.pollerPhase_of_fbreq (hidle : s.busy = false) {c : Byte}
    (hprogram : s.program = .op (.fbreq c) :: .op .fbrecv :: .poll ch pos :: rest) :
    s.pollerPhase = some .polling := by
  simp [State.pollerPhase, hidle, hprogram]

theorem State.pollerPhase_of_requesting (hbusy : s.busy = true) (hkind : s.opk = .fbreq)
    (hprogram : s.program = .op .fbrecv :: .poll ch pos :: rest) : s.pollerPhase = some .polling := by
  simp [State.pollerPhase, hbusy, hkind, hprogram]

theorem State.pollerPhase_of_fbrecv (hidle : s.busy = false)
    (hprogram : s.program = .op .fbrecv :: .poll ch pos :: rest) : s.pollerPhase = some .polling := by
  simp [State.pollerPhase, hidle, hprogram]

theorem State.pollerPhase_of_receiving (hbusy : s.busy = true) (hkind : s.opk = .fbrecv)
    (hprogram : s.program = .poll ch pos :: rest) : s.pollerPhase = some .polling := by
  simp [State.pollerPhase, hbusy, hkind, hprogram]

/-- The states that have a phase: the loop's head, whose phase is by the test, and the four in Polling. -/
theorem State.pollerPhase_cases {p : PollerPhase} (h : s.pollerPhase = some p) :
    (∃ ch pos rest v, s.busy = false ∧ s.program = .poll ch pos :: rest ∧
      readEntry s (tableIndex s.params.rxMask ch) = some v ∧ p = if v = pos then .arrived else .moving) ∨
    p = .polling ∧ ∃ ch pos rest,
      (s.busy = true ∧ s.opk = .fbreq ∧ s.program = .op .fbrecv :: .poll ch pos :: rest) ∨
      (s.busy = true ∧ s.opk = .fbrecv ∧ s.program = .poll ch pos :: rest) ∨
      (∃ c, s.busy = false ∧ s.program = .op (.fbreq c) :: .op .fbrecv :: .poll ch pos :: rest) ∨
      (s.busy = false ∧ s.program = .op .fbrecv :: .poll ch pos :: rest) := by
  unfold State.pollerPhase at h
  split at h
  · next hbusy =>
    split at h
    · next hkind hprogram =>
      cases h
      exact .inr ⟨rfl, _, _, _, .inl ⟨hbusy, hkind, hprogram⟩⟩
    · next hkind hprogram =>
      cases h
      exact .inr ⟨rfl, _, _, _, .inr (.inl ⟨hbusy, hkind, hprogram⟩)⟩
    · cases h
  · next hidle =>
    rw [Bool.not_eq_true] at hidle
    split at h
    · next hprogram =>
      split at h
      · next hread =>
        cases h
        exact .inl ⟨_, _, _, _, hidle, hprogram, hread, by simp [arrived]⟩
      · cases h
    · next hprogram =>
      cases h
      exact .inr ⟨rfl, _, _, _, .inr (.inr (.inl ⟨_, hidle, hprogram⟩))⟩
    · next hprogram =>
      cases h
      exact .inr ⟨rfl, _, _, _, .inr (.inr (.inr ⟨hidle, hprogram⟩))⟩
    · cases h

/-- A phase at the loop's head, whatever the test will find. -/
theorem State.pollerPhase_of_head (hwf : s.wf = true) (hidle : s.busy = false)
    (hprogram : s.program = .poll ch pos :: rest) :
    s.pollerPhase = some .moving ∨ s.pollerPhase = some .arrived := by
  obtain ⟨-, ⟨v, hread⟩, -⟩ := everyIndexExists s ch hwf
  rw [State.pollerPhase_of_poll hidle hprogram hread]
  by_cases hv : v = pos
  · exact .inr (by rw [if_pos hv])
  · exact .inl (by rw [if_neg hv])

/-! ### One step from each of them -/

theorem step_of_moving (h : s.pollerPhase = some .moving) (hstep : step s = .next t) :
    t.pollerPhase = some .polling := by
  rcases State.pollerPhase_cases h with ⟨ch, pos, rest, v, hidle, hprogram, hread, hphase⟩ | ⟨hphase, -⟩
  · have hv : v ≠ pos := by
      rintro rfl
      rw [if_pos rfl] at hphase
      cases hphase
    rw [step_of_poll_ne hidle hprogram hread hv] at hstep
    cases hstep
    exact State.pollerPhase_of_fbreq hidle rfl
  · cases hphase

theorem step_of_arrived (h : s.pollerPhase = some .arrived) (hstep : step s = .next t) :
    t = s.withProgram s.program.tail := by
  rcases State.pollerPhase_cases h with ⟨ch, pos, rest, v, hidle, hprogram, hread, hphase⟩ | ⟨hphase, -⟩
  · obtain rfl : v = pos := by
      by_contra hv
      rw [if_neg hv] at hphase
      cases hphase
    rw [step_of_poll_arrived hidle hprogram hread] at hstep
    cases hstep
    rw [hprogram, List.tail_cons]
  · cases hphase

/-- A request leads on to its response, and a response to the test; until the last byte the phase stays. -/
theorem step_of_polling (hwf : s.wf = true) (h : s.pollerPhase = some .polling) (hstep : step s = .next t) :
    t.pollerPhase = some .polling ∨ t.pollerPhase = some .moving ∨ t.pollerPhase = some .arrived := by
  rcases State.pollerPhase_cases h with ⟨ch, pos, rest, v, -, -, -, hphase⟩ |
    ⟨-, ch, pos, rest, ⟨hbusy, hkind, hprogram⟩ | ⟨hbusy, hkind, hprogram⟩ | ⟨c, hidle, hprogram⟩ |
      ⟨hidle, hprogram⟩⟩
  · split at hphase <;> cases hphase
  · obtain ⟨hkind', -, -, -, hprogram'⟩ := operandsStayLatched s t hbusy hstep
    rw [hkind] at hkind'
    rw [hprogram] at hprogram'
    cases ht : t.busy with
    | true => exact .inl (State.pollerPhase_of_requesting ht hkind' hprogram')
    | false => exact .inl (State.pollerPhase_of_fbrecv ht hprogram')
  · obtain ⟨hkind', -, -, -, hprogram'⟩ := operandsStayLatched s t hbusy hstep
    rw [hkind] at hkind'
    rw [hprogram] at hprogram'
    cases ht : t.busy with
    | true => exact .inl (State.pollerPhase_of_receiving ht hkind' hprogram')
    | false => exact .inr (State.pollerPhase_of_head (stepKeepsWellFormed s t hwf hstep) ht hprogram')
  · rw [step_issues hidle hprogram] at hstep
    cases hstep
    exact .inl (State.pollerPhase_of_requesting rfl rfl rfl)
  · rw [step_issues hidle hprogram] at hstep
    cases hstep
    exact .inl (State.pollerPhase_of_receiving rfl rfl rfl)

end Phase

/-- Settles O33: one step from each of the three. -/
theorem pollerPhasesFollow : Obligations.PollerPhasesFollow := fun _ _ hwf hstep =>
  ⟨fun h => step_of_moving h hstep, fun h => step_of_polling hwf h hstep, fun h => step_of_arrived h hstep⟩

end Sys2Proof.Machine
end

section
/-! PROOFS. No run stops, and no stuck run goes on: every well-formed state has a next state, and what a state
stuck in Send or in Recv has next is the same but for the answers to come (60_exceptions.md R150, R157). -/

namespace Sys2Proof.Machine

section Progress
variable {s : State} {k : Nat}

/-! ### Every well-formed state has a next state -/

/-- A send step faults only beyond its frame (R101). -/
theorem exists_sendNext {frame : List Byte} (htxi : s.txi.val < frame.length) : ∃ t, SendNext frame s t := by
  rcases sendStep_cases frame s with ⟨hnone, -⟩ | ⟨b, -, ⟨-, heq⟩ | ⟨-, -, heq⟩ | ⟨-, -, heq⟩⟩
  · exact absurd (List.getElem?_eq_none_iff.mp hnone) (Nat.not_le.mpr htxi)
  all_goals exact ⟨_, sendStep_next.mp heq⟩

/-- A receive step faults only where the table lacks the reported entry (R21, R118). -/
theorem exists_recvNext (hntab : s.pos.length = ntab s.params.rxMask) : ∃ t, RecvNext s t := by
  rcases recvStep_cases s with ⟨-, heq⟩ | ⟨b, hoffer, ⟨-, heq⟩ | ⟨-, heq⟩ | ⟨hrxi, -⟩⟩
  · exact ⟨_, recvStep_next.mp heq⟩
  · exact ⟨_, recvStep_next.mp heq⟩
  · exact ⟨_, recvStep_next.mp heq⟩
  · exact ⟨_, recvStep_next.mp (recvStep_of_third hoffer hrxi hntab rfl)⟩

theorem exists_step_of_busy (hwf : s.wf = true) (hbusy : s.busy = true) : ∃ t, step s = .next t := by
  obtain ⟨hntab, hindices⟩ := State.wf_iff.mp hwf
  by_cases hkind : s.opk = .fbrecv
  · obtain ⟨t, hrecv⟩ := exists_recvNext hntab
    exact ⟨t, step_of_recvNext hbusy hkind hrecv⟩
  · obtain ⟨htxi, -⟩ := (State.indicesOk_iff_of_sending hbusy hkind).mp hindices
    obtain ⟨t, hsend⟩ := exists_sendNext htxi
    exact ⟨t, step_of_sendNext hbusy hkind hsend⟩

/-- The host's next item is issued, expanded or tested, and the entry a test reads exists (R21, R137). -/
theorem exists_step_of_idle (hwf : s.wf = true) (hidle : s.busy = false) : ∃ t, step s = .next t := by
  match hprogram : s.program with
  | [] => exact ⟨s, step_of_nil hidle hprogram⟩
  | .op i :: rest => exact ⟨_, step_issues hidle hprogram⟩
  | .moveWait ch pos spd :: rest => exact ⟨_, step_of_moveWait hidle hprogram⟩
  | .poll ch pos :: rest =>
    obtain ⟨-, ⟨v, hread⟩, -⟩ := everyIndexExists s ch hwf
    by_cases hv : v = pos
    · exact ⟨_, step_of_poll_arrived hidle hprogram (hv ▸ hread)⟩
    · exact ⟨_, step_of_poll_ne hidle hprogram hread hv⟩

theorem exists_step_of_wf (hwf : s.wf = true) : ∃ t, step s = .next t ∧ t.wf = true := by
  have hstep : ∃ t, step s = .next t := by
    cases hbusy : s.busy with
    | true => exact exists_step_of_busy hwf hbusy
    | false => exact exists_step_of_idle hwf hbusy
  obtain ⟨t, ht⟩ := hstep
  exact ⟨t, ht, stepKeepsWellFormed s t hwf ht⟩

end Progress

/-- Settles O41, by induction on the number of steps: a well-formed state has a next state, well-formed again. -/
theorem noRunStops : Obligations.NoRunStops := by
  intro s k hwf
  induction k generalizing s with
  | zero => exact ⟨s, runSteps_zero s, hwf⟩
  | succ k ih =>
    obtain ⟨u, hstep, hu⟩ := exists_step_of_wf hwf
    obtain ⟨t, hrun, ht⟩ := ih u hu
    exact ⟨t, (runSteps_succ_of_next hstep k).trans hrun, ht⟩

section Stuck
variable {s t : State}

/-! ### A stuck state only waits -/

theorem txOffer_of_neverServes (h : s.tx.neverServes Config.txOracle id) : (txOffer s).1 = false := by
  obtain ⟨hnext, -⟩ := Feed.neverServes_iff_next.mp h
  show (s.tx.next Config.txOracle).1.getD false = false
  cases hanswer : (s.tx.next Config.txOracle).1 with
  | none => rfl
  | some a => exact hnext a hanswer

theorem rxOffer_of_neverServes (h : s.rx.neverServes Config.rxOracle Option.isSome) : (rxOffer s).1 = none := by
  obtain ⟨hnext, -⟩ := Feed.neverServes_iff_next.mp h
  show (s.rx.next Config.rxOracle).1.join = none
  cases hanswer : (s.rx.next Config.rxOracle).1 with
  | none => rfl
  | some a => exact Option.not_isSome_iff_eq_none.mp (by simp [hnext a hanswer])

theorem State.stuckInSend.step (h : s.stuckInSend) (hstep : step s = .next t) :
    ∃ tx', t = { s with tx := tx' } ∧ t.stuckInSend := by
  obtain ⟨hbusy, hkind, hnever⟩ := h
  have hoffer := txOffer_of_neverServes hnever
  have hmore := (Feed.neverServes_iff_next.mp hnever).2
  rcases step_next_of_busy hbusy hstep with ⟨-, b, -, hsend⟩ | ⟨hrecv, -⟩
  · rcases hsend with ⟨-, rfl⟩ | ⟨haccept, -⟩ | ⟨haccept, -⟩
    · exact ⟨_, rfl, hbusy, hkind, hmore⟩
    · rw [hoffer] at haccept; cases haccept
    · rw [hoffer] at haccept; cases haccept
  · exact absurd hrecv hkind

theorem State.stuckInRecv.step (h : s.stuckInRecv) (hstep : step s = .next t) :
    ∃ rx', t = { s with rx := rx' } ∧ t.stuckInRecv := by
  obtain ⟨hbusy, hkind, hnever⟩ := h
  have hoffer := rxOffer_of_neverServes hnever
  have hmore := (Feed.neverServes_iff_next.mp hnever).2
  rcases step_next_of_busy hbusy hstep with ⟨hsend, -⟩ | ⟨-, ⟨-, rfl⟩ | ⟨b, hbyte, -⟩⟩
  · exact absurd hkind hsend
  · exact ⟨_, rfl, hbusy, hkind, hmore⟩
  · rw [hoffer] at hbyte; cases hbyte

theorem State.stuckInSend.run {k : Nat} (h : s.stuckInSend) (hrun : runSteps k s = .next t) :
    ∃ tx', t = { s with tx := tx' } ∧ t.stuckInSend := by
  refine runSteps_invariant (Inv := fun t => ∃ tx', t = { s with tx := tx' } ∧ t.stuckInSend) ?_
    ⟨s.tx, rfl, h⟩ hrun
  rintro _ v ⟨tx', rfl, hu⟩ hstep
  exact hu.step hstep

theorem State.stuckInRecv.run {k : Nat} (h : s.stuckInRecv) (hrun : runSteps k s = .next t) :
    ∃ rx', t = { s with rx := rx' } ∧ t.stuckInRecv := by
  refine runSteps_invariant (Inv := fun t => ∃ rx', t = { s with rx := rx' } ∧ t.stuckInRecv) ?_
    ⟨s.rx, rfl, h⟩ hrun
  rintro _ v ⟨rx', rfl, hu⟩ hstep
  exact hu.step hstep

end Stuck

/-- Settles O47: no run stops, and each step of a stuck state is a wait. -/
theorem stuckStaysStuck : Obligations.StuckStaysStuck := by
  intro s k hwf
  obtain ⟨t, hrun, -⟩ := noRunStops s k hwf
  refine ⟨fun h => ?_, fun h => ?_⟩
  · obtain ⟨tx', rfl, ht⟩ := h.run hrun
    exact ⟨tx', hrun, ht⟩
  · obtain ⟨rx', rfl, ht⟩ := h.run hrun
    exact ⟨rx', hrun, ht⟩

end Sys2Proof.Machine
end

section
/-! PROOFS. Every run comes to an outcome: an operation in progress is stuck or completes, so the host's program
goes on to its end unless the exit test of one MOVEWAIT fails without end (60_exceptions.md R157). -/

namespace Sys2Proof.Machine

/-! ### The operation in progress takes bytes until it is done -/

/-- The bytes that the operation in progress has still to send or to take. -/
def State.bytesLeft (s : State) : Nat :=
  if s.busy then
    if s.opk = .fbrecv then 3 - s.rxi.val else s.frame.length - s.txi.val
  else 0

/-- A run from `s` has fewer bytes left of the operation in progress, or has completed it; the host has not moved. -/
def State.Advances (s : State) : Prop :=
  Reaches s fun t => t.program = s.program ∧ t.bytesLeft < s.bytesLeft

section Bytes
variable {s t : State}

theorem State.bytesLeft_of_idle (hidle : s.busy = false) : s.bytesLeft = 0 := by
  simp [State.bytesLeft, hidle]

theorem State.bytesLeft_of_sending (hbusy : s.busy = true) (hkind : s.opk ≠ .fbrecv) :
    s.bytesLeft = s.frame.length - s.txi.val := by
  simp [State.bytesLeft, hbusy, hkind]

theorem State.bytesLeft_of_receiving (hbusy : s.busy = true) (hkind : s.opk = .fbrecv) :
    s.bytesLeft = 3 - s.rxi.val := by
  simp [State.bytesLeft, hbusy, hkind]

theorem SendNext.bytesLeft_lt (h : SendNext s.frame s t) (hbusy : s.busy = true) (hkind : s.opk ≠ .fbrecv)
    (hoffer : (txOffer s).1 = true) : t.bytesLeft < s.bytesLeft := by
  obtain ⟨b, hb, hcases⟩ := h
  have htxi : s.txi.val < s.frame.length := (List.getElem?_eq_some_iff.mp hb).1
  rw [State.bytesLeft_of_sending hbusy hkind]
  rcases hcases with ⟨hrefused, -⟩ | ⟨-, hmore, rfl⟩ | ⟨-, -, rfl⟩
  · rw [hoffer] at hrefused; cases hrefused
  · have hfits : s.frame.length ≤ 4 := State.frame_eq_encode_inProgress hkind ▸ encode_length_le_four _
    have hnext : (s.txi + 1).val = s.txi.val + 1 := Nat.mod_eq_of_lt (Nat.lt_of_lt_of_le hmore hfits)
    rw [State.bytesLeft_of_sending (s := s.sentByte b _) hbusy hkind]
    show s.frame.length - (s.txi + 1).val < s.frame.length - s.txi.val
    omega
  · rw [State.bytesLeft_of_idle rfl]
    omega

theorem RecvNext.bytesLeft_lt {b : Byte} (h : RecvNext s t) (hbusy : s.busy = true) (hkind : s.opk = .fbrecv)
    (hoffer : (rxOffer s).1 = some b) : t.bytesLeft < s.bytesLeft := by
  rw [State.bytesLeft_of_receiving hbusy hkind]
  rcases h with ⟨hnone, -⟩ | ⟨b, -, ⟨hrxi, rfl⟩ | ⟨hrxi, rfl⟩ | ⟨hrxi, -, rfl⟩⟩
  · rw [hoffer] at hnone; cases hnone
  · rw [State.bytesLeft_of_receiving (s := s.tookFirst b _) hbusy hkind, hrxi]
    exact (by decide : 3 - 1 < 3 - 0)
  · rw [State.bytesLeft_of_receiving (s := s.tookSecond b _) hbusy hkind, hrxi]
    exact (by decide : 3 - 2 < 3 - 1)
  · rw [State.bytesLeft_of_idle rfl, hrxi]
    decide

theorem Reaches.of_step {P : State → Prop} (hstep : step s = .next t) (ht : Reaches t P) : Reaches s P :=
  Reaches.of_run (runSteps_one hstep) ht

theorem Reaches.here {P : State → Prop} (hs : P s) : Reaches s P := ⟨0, s, runSteps_zero s, hs⟩

/-- A sender whose line accepts a byte after some waits. -/
theorem State.advances_of_accepted {k : Nat} {f g : Feed Bool} {as : List Bool}
    (hf : f.Serves Config.txOracle id as k g) (has : as ≠ []) (htx : s.tx = f) (hwf : s.wf = true)
    (hbusy : s.busy = true) (hkind : s.opk ≠ .fbrecv) : s.Advances := by
  obtain ⟨-, hindices⟩ := State.wf_iff.mp hwf
  obtain ⟨htxi, -⟩ := (State.indicesOk_iff_of_sending hbusy hkind).mp hindices
  induction hf generalizing s with
  | done => exact absurd rfl has
  | @wait f h g a b as k hnext hrefused _ ih =>
    have hoffer : txOffer s = (a, h) := by simp [txOffer, htx, hnext]
    have hstep : step s = .next (s.sendWaited h) := step_of_sendNext hbusy hkind
      ⟨_, List.getElem?_eq_getElem htxi, .inl (by rw [hoffer]; exact ⟨hrefused, rfl⟩)⟩
    exact Reaches.of_step hstep
      (ih has rfl (stepKeepsWellFormed _ _ hwf hstep) hbusy hkind hindices htxi)
  | @serve f h g a as k hnext hserved _ _ =>
    have hoffer : (txOffer s).1 = true := by simpa [txOffer, htx, hnext] using hserved
    obtain ⟨t, hsend⟩ := exists_sendNext htxi
    exact Reaches.of_step (step_of_sendNext hbusy hkind hsend)
      (Reaches.here ⟨hsend.program_eq, hsend.bytesLeft_lt hbusy hkind hoffer⟩)

/-- A receiver whose board supplies a byte after some waits. -/
theorem State.advances_of_supplied {k : Nat} {f g : Feed (Option Byte)} {as : List (Option Byte)}
    (hf : f.Serves Config.rxOracle Option.isSome as k g) (has : as ≠ []) (hrx : s.rx = f)
    (hntab : s.pos.length = ntab s.params.rxMask) (hbusy : s.busy = true) (hkind : s.opk = .fbrecv) :
    s.Advances := by
  induction hf generalizing s with
  | done => exact absurd rfl has
  | @wait f h g a b as k hnext hrefused _ ih =>
    obtain rfl : a = none := by simpa using hrefused
    have hoffer : rxOffer s = (none, h) := by simp [rxOffer, hrx, hnext]
    have hstep : step s = .next (s.recvWaited h) := step_of_recvNext hbusy hkind
      (.inl (by rw [hoffer]; exact ⟨rfl, rfl⟩))
    exact Reaches.of_step hstep (ih has rfl hntab hbusy hkind)
  | @serve f h g a as k hnext hserved _ _ =>
    obtain ⟨b, rfl⟩ := Option.isSome_iff_exists.mp hserved
    have hoffer : (rxOffer s).1 = some b := by simp [rxOffer, hrx, hnext]
    obtain ⟨t, hrecv⟩ := exists_recvNext hntab
    exact Reaches.of_step (step_of_recvNext hbusy hkind hrecv)
      (Reaches.here ⟨hrecv.program_eq, hrecv.bytesLeft_lt hbusy hkind hoffer⟩)

theorem State.advances_of_not_stuck (hwf : s.wf = true) (hbusy : s.busy = true) (hsend : ¬ s.stuckInSend)
    (hrecv : ¬ s.stuckInRecv) : s.Advances := by
  by_cases hkind : s.opk = .fbrecv
  · obtain ⟨a, k, hserves⟩ := Feed.exists_serves_one fun hnever => hrecv ⟨hbusy, hkind, hnever⟩
    obtain ⟨hntab, -⟩ := State.wf_iff.mp hwf
    exact State.advances_of_supplied hserves (List.cons_ne_nil a []) rfl hntab hbusy hkind
  · obtain ⟨a, k, hserves⟩ := Feed.exists_serves_one fun hnever => hsend ⟨hbusy, hkind, hnever⟩
    exact State.advances_of_accepted hserves (List.cons_ne_nil a []) rfl hwf hbusy hkind

end Bytes

/-! ### The host's program goes on or the run ends -/

/-- The block is idle, and `program` is what the host has still to do. -/
structure State.StandsBefore (s : State) (program : List HostOp) : Prop where
  wf : s.wf = true
  idle : s.busy = false
  program : s.program = program

/-- The run from `s` comes to an outcome, or it reaches a state of which `P` holds. -/
def State.EndsOrReaches (s : State) (P : State → Prop) : Prop := (∃ o, s.comesTo o) ∨ Reaches s P

section Outcome
variable {s t : State} {ch : Byte} {pos : Word} {rest program : List HostOp}

theorem runSteps_keeps_wf {k : Nat} (hwf : s.wf = true) (hrun : runSteps k s = .next t) : t.wf = true :=
  runSteps_invariant (Inv := (·.wf = true)) stepKeepsWellFormed hwf hrun

theorem exists_comesTo_of_reaches {P : State → Prop} (h : Reaches s P) (hP : ∀ t, P t → ∃ o, t.comesTo o) :
    ∃ o, s.comesTo o := by
  obtain ⟨k, t, hrun, ht⟩ := h
  obtain ⟨o, ho⟩ := hP t ht
  exact ⟨o, State.comesTo_of_run hrun ho⟩

theorem State.EndsOrReaches.of_run {P : State → Prop} {k : Nat} (hrun : runSteps k s = .next t)
    (ht : t.EndsOrReaches P) : s.EndsOrReaches P :=
  ht.imp (fun ⟨o, ho⟩ => ⟨o, State.comesTo_of_run hrun ho⟩) (Reaches.of_run hrun)

theorem State.EndsOrReaches.trans {P Q : State → Prop} (h : s.EndsOrReaches P)
    (hPQ : ∀ t, P t → t.EndsOrReaches Q) : s.EndsOrReaches Q := by
  rcases h with hends | ⟨k, t, hrun, ht⟩
  · exact .inl hends
  · exact .of_run hrun (hPQ t ht)

/-- By strong induction on the bytes it has left, an operation in progress is stuck in the end or completes. -/
theorem State.endsOrCompletes_of_busy (hwf : s.wf = true) (hbusy : s.busy = true) (hprogram : s.program = program) :
    s.EndsOrReaches (·.StandsBefore program) := by
  induction hleft : s.bytesLeft using Nat.strong_induction_on generalizing s with
  | _ n ih =>
    subst hleft
    by_cases hsend : s.stuckInSend
    · exact .inl ⟨.stuckInSend, Reaches.here hsend⟩
    by_cases hrecv : s.stuckInRecv
    · exact .inl ⟨.stuckInRecv, Reaches.here hrecv⟩
    obtain ⟨k, t, hrun, hprogram', hfewer⟩ := State.advances_of_not_stuck hwf hbusy hsend hrecv
    have hwf' := runSteps_keeps_wf hwf hrun
    cases hbusy' : t.busy with
    | false => exact .inr ⟨k, t, hrun, hwf', hbusy', hprogram'.trans hprogram⟩
    | true => exact .of_run hrun (ih t.bytesLeft hfewer hwf' hbusy' (hprogram'.trans hprogram) rfl)

/-- An operation of the host's program is issued, and stuck in the end or completed. -/
theorem State.StandsBefore.op {i : Instr} (h : s.StandsBefore (.op i :: rest)) :
    s.EndsOrReaches (·.StandsBefore rest) := by
  have hissue := step_issues h.idle h.program
  refine .of_run (runSteps_one hissue) (State.endsOrCompletes_of_busy (stepKeepsWellFormed _ _ h.wf hissue)
    (State.issued_busy _ i) ?_)
  cases i <;> rfl

/-- A test that fails is followed by the next one, unless the run ends in the round trip between them. -/
theorem State.StandsBefore.testsAgain (h : s.StandsBefore (.poll ch pos :: rest))
    (hfails : s.failsTest ch pos rest) (hends : ¬ ∃ o, s.comesTo o) :
    ∃ k t, 0 < k ∧ runSteps k s = .next t ∧ t.StandsBefore (.poll ch pos :: rest) := by
  obtain ⟨hidle, hprogram, hread⟩ := hfails
  obtain ⟨-, ⟨v, hv⟩, -⟩ := everyIndexExists s ch h.wf
  have hstep := step_of_poll_ne hidle hprogram hv fun heq => hread (heq ▸ hv)
  have hasks : (s.withProgram (expandRoundTrip ch pos rest)).StandsBefore (expandRoundTrip ch pos rest) :=
    ⟨stepKeepsWellFormed _ _ h.wf hstep, hidle, rfl⟩
  rcases hasks.op.trans fun _ hreceives => hreceives.op with ⟨o, ho⟩ | ⟨k, t, hrun, ht⟩
  · exact absurd ⟨o, State.comesTo_of_run (runSteps_one hstep) ho⟩ hends
  · exact ⟨k + 1, t, Nat.succ_pos k, (runSteps_succ_of_next hstep k).trans hrun, ht⟩

/-- The test fails where the run never leaves the loop. -/
theorem State.StandsBefore.failsTest (h : s.StandsBefore (.poll ch pos :: rest))
    (hloop : ¬ Reaches s (·.StandsBefore rest)) : s.failsTest ch pos rest := by
  refine ⟨h.idle, h.program, fun hread => hloop ?_⟩
  have hexit := step_of_poll_arrived h.idle h.program hread
  exact Reaches.of_step hexit (Reaches.here ⟨stepKeepsWellFormed _ _ h.wf hexit, h.idle, rfl⟩)

/-- If the run neither ends nor leaves the loop, the test fails again and again. -/
theorem State.StandsBefore.failsTest_after (h : s.StandsBefore (.poll ch pos :: rest))
    (hends : ¬ ∃ o, s.comesTo o) (hloop : ¬ Reaches s (·.StandsBefore rest)) (n : Nat) :
    ∃ k t, n ≤ k ∧ runSteps k s = .next t ∧ t.failsTest ch pos rest := by
  induction n generalizing s with
  | zero => exact ⟨0, s, Nat.le_refl 0, runSteps_zero s, h.failsTest hloop⟩
  | succ n ih =>
    obtain ⟨j, u, hj, hrun, hu⟩ := h.testsAgain (h.failsTest hloop) hends
    obtain ⟨k, t, hk, hrun', ht⟩ := ih hu (fun ⟨o, ho⟩ => hends ⟨o, State.comesTo_of_run hrun ho⟩)
      fun hrest => hloop (Reaches.of_run hrun hrest)
    exact ⟨j + k, t, by omega, (runSteps_add hrun k).trans hrun', ht⟩

/-- The loop of a MOVEWAIT is left, or its test fails without end, or the run ends in a round trip (R133). -/
theorem State.StandsBefore.poll (h : s.StandsBefore (.poll ch pos :: rest)) :
    s.EndsOrReaches (·.StandsBefore rest) := by
  by_contra hneither
  obtain ⟨hends, hloop⟩ := not_or.mp hneither
  exact hends ⟨.hangs, ch, pos, rest, h.failsTest_after hends hloop⟩

theorem State.StandsBefore.moveWait {spd : Byte} (h : s.StandsBefore (.moveWait ch pos spd :: rest)) :
    s.EndsOrReaches (·.StandsBefore rest) := by
  have hstep := step_of_moveWait h.idle h.program
  have hexpanded : (s.withProgram (expandMoveWait ch pos spd rest)).StandsBefore
      (expandMoveWait ch pos spd rest) := ⟨stepKeepsWellFormed _ _ h.wf hstep, h.idle, rfl⟩
  exact .of_run (runSteps_one hstep) (hexpanded.op.trans fun _ hpolls => hpolls.poll)

theorem State.StandsBefore.exists_comesTo (h : s.StandsBefore program) : ∃ o, s.comesTo o := by
  induction program generalizing s with
  | nil => exact ⟨.completes, Reaches.here (State.finished_iff.mpr ⟨h.idle, h.program⟩)⟩
  | cons item rest ih =>
    have hitem : s.EndsOrReaches (·.StandsBefore rest) := by
      cases item with
      | op i => exact h.op
      | moveWait ch pos spd => exact h.moveWait
      | poll ch pos => exact h.poll
    exact hitem.elim id fun hrest => exists_comesTo_of_reaches hrest fun _ ht => ih ht

theorem State.exists_comesTo (hwf : s.wf = true) : ∃ o, s.comesTo o := by
  cases hbusy : s.busy with
  | false => exact State.StandsBefore.exists_comesTo ⟨hwf, hbusy, rfl⟩
  | true =>
    exact (State.endsOrCompletes_of_busy hwf hbusy rfl).elim id
      fun hrest => exists_comesTo_of_reaches hrest fun _ ht => ht.exists_comesTo

end Outcome

end Sys2Proof.Machine
end

section
/-! PROOFS. No run comes to two outcomes: each shows at a state, a run that has reached any but a hang shows it from
then on, and no state shows two (60_exceptions.md R157). -/

namespace Sys2Proof.Machine

/-- What a run that comes to the outcome has reached, or for a hang comes by again and again. -/
def State.Shows (s : State) : RunOutcome → Prop
  | .completes => s.finished = true
  | .stuckInSend => s.stuckInSend
  | .stuckInRecv => s.stuckInRecv
  | .hangs => ∃ ch pos rest, s.failsTest ch pos rest

/-- The one outcome that a state can show: the operation in progress tells the two stuck ones apart, and what the
host has still to do the other two. -/
def State.outcomeShown (s : State) : RunOutcome :=
  if s.busy then
    if s.opk = .fbrecv then .stuckInRecv else .stuckInSend
  else if s.program.isEmpty then .completes else .hangs

section Uniqueness
variable {s t : State} {o o' : RunOutcome} {k : Nat}

theorem State.Shows.outcomeShown_eq (h : s.Shows o) : s.outcomeShown = o := by
  cases o with
  | completes =>
    obtain ⟨hidle, hprogram⟩ := State.finished_iff.mp h
    simp [State.outcomeShown, hidle, hprogram]
  | stuckInSend =>
    obtain ⟨hbusy, hkind, -⟩ := h
    simp [State.outcomeShown, hbusy, hkind]
  | stuckInRecv =>
    obtain ⟨hbusy, hkind, -⟩ := h
    simp [State.outcomeShown, hbusy, hkind]
  | hangs =>
    obtain ⟨ch, pos, rest, hidle, hprogram, -⟩ := h
    simp [State.outcomeShown, hidle, hprogram]

theorem State.Shows.unique (h : s.Shows o) (h' : s.Shows o') : o' = o :=
  h'.outcomeShown_eq.symm.trans h.outcomeShown_eq

theorem State.Shows.run (h : s.Shows o) (ho : o ≠ .hangs) (hrun : runSteps k s = .next t) : t.Shows o := by
  cases o with
  | completes =>
    obtain ⟨hidle, hprogram⟩ := State.finished_iff.mp h
    exact runSteps_of_nil hidle hprogram hrun ▸ h
  | stuckInSend =>
    obtain ⟨-, -, ht⟩ := State.stuckInSend.run h hrun
    exact ht
  | stuckInRecv =>
    obtain ⟨-, -, ht⟩ := State.stuckInRecv.run h hrun
    exact ht
  | hangs => exact absurd rfl ho

theorem State.comesTo.reaches_shows (h : s.comesTo o) (ho : o ≠ .hangs) : Reaches s (·.Shows o) := by
  cases o with
  | completes => exact h
  | stuckInSend => exact h
  | stuckInRecv => exact h
  | hangs => exact absurd rfl ho

theorem State.comesTo.shows_eventually (h : s.comesTo o) (ho : o ≠ .hangs) :
    ∃ n, ∀ k t, n ≤ k → runSteps k s = .next t → t.Shows o := by
  obtain ⟨n, u, hrun, hu⟩ := h.reaches_shows ho
  refine ⟨n, fun k t hk ht => hu.run (k := k - n) ho ?_⟩
  rwa [← runSteps_add hrun, Nat.add_sub_cancel' hk]

theorem State.comesTo.shows_after (hwf : s.wf = true) (h : s.comesTo o) (n : Nat) :
    ∃ k t, n ≤ k ∧ runSteps k s = .next t ∧ t.Shows o := by
  by_cases ho : o = .hangs
  · subst ho
    obtain ⟨ch, pos, rest, hfails⟩ := h
    obtain ⟨k, t, hk, hrun, ht⟩ := hfails n
    exact ⟨k, t, hk, hrun, ch, pos, rest, ht⟩
  · obtain ⟨m, hshows⟩ := h.shows_eventually ho
    obtain ⟨t, hrun, -⟩ := noRunStops s (max m n) hwf
    exact ⟨_, t, le_max_right m n, hrun, hshows _ t (le_max_left m n) hrun⟩

/-- From some step on the run shows the outcome that is no hang, and after that step it shows the other. -/
theorem State.comesTo.unique_of_ne_hangs (hwf : s.wf = true) (h : s.comesTo o) (ho : o ≠ .hangs)
    (h' : s.comesTo o') : o' = o := by
  obtain ⟨n, hshows⟩ := h.shows_eventually ho
  obtain ⟨k, t, hk, hrun, ht⟩ := h'.shows_after hwf n
  exact (hshows k t hk hrun).unique ht

theorem State.comesTo.unique (hwf : s.wf = true) (h : s.comesTo o) (h' : s.comesTo o') : o' = o := by
  by_cases ho : o = .hangs
  · by_cases ho' : o' = .hangs
    · exact ho'.trans ho.symm
    · exact (h'.unique_of_ne_hangs hwf ho' h).symm
  · exact h.unique_of_ne_hangs hwf ho h'

end Uniqueness

/-- Settles O51: by induction on the host's program the run comes to an outcome, and it shows no other. -/
theorem everyRunHasOneOutcome : Obligations.EveryRunHasOneOutcome := by
  intro s hwf
  obtain ⟨o, ho⟩ := State.exists_comesTo hwf
  exact ⟨o, ho, fun _ ho' => ho.unique hwf ho'⟩

end Sys2Proof.Machine
end

section
/-! PROOFS. A machine that has finished stands still: its step changes nothing, so no number of steps does
(70_reset_and_hazards.md R172, log entry 2). -/

namespace Sys2Proof.Machine

theorem runSteps_of_step_self {s : State} (hstep : step s = .next s) (k : Nat) : runSteps k s = .next s := by
  induction k with
  | zero => exact runSteps_zero s
  | succ k ih => rw [runSteps_succ_of_next hstep, ih]

theorem State.finished.step_self {s : State} (h : s.finished = true) : step s = .next s := by
  obtain ⟨hidle, hprogram⟩ := State.finished_iff.mp h
  exact step_of_nil hidle hprogram

/-- Settles O28: an idle block whose host has nothing left to issue steps to itself. -/
theorem finishedMachineStandsStill : Obligations.FinishedMachineStandsStill :=
  fun _ k hfinished => runSteps_of_step_self (State.finished.step_self hfinished) k

end Sys2Proof.Machine
end

section
/-! PROOFS. A busy block refuses every operation but the one in progress (93_implementation_defined.md U12,
log entry 8). -/

namespace Sys2Proof.Machine

theorem exec_other {i : Instr} {s : State} (hbusy : s.busy = true) (hother : s.inProgress ≠ i) :
    exec i s = .refused .issueWhileBusy := by
  cases i with
  | move ch pos spd => exact runPrimitive_other hbusy hother
  | fbreq ch => exact runPrimitive_other hbusy hother
  | fbrecv => exact runPrimitive_other hbusy hother

/-- Settles O16: each operation runs as a primitive, and a busy block refuses a primitive that it is not
carrying out. -/
theorem busyBlockRefusesOthers : Obligations.BusyBlockRefusesOthers :=
  fun _ _ hbusy hother => exec_other hbusy hother.symm

end Sys2Proof.Machine
end
